-- ==== Sys2Proof/Word.lean ====
section
/-! DEFINITION. The widths of the spec's values (00_scope.md R10, R12) and the operand types made of bytes. -/

namespace Sys2Proof

/-- A `u8`. -/
abbrev Byte := BitVec 8

/-- A `u16`: the address field and the fold's word. -/
abbrev Word16 := BitVec 16

/-- A `u24`: the accumulator. -/
abbrev Word24 := BitVec 24

/-- A `u32`: the host's base addresses, sizes and offsets. -/
abbrev Word32 := BitVec 32

/-- A line of characters, one byte each (20_memory.md R61). -/
abbrev Line := List Byte

/-- A byte buffer of any length (20_memory.md R62). -/
abbrev Buffer := List Byte

end Sys2Proof
end

