-- ==== Sys2Proof/Config.lean ====
section
/-! DEFINITION. The parameters of the block (00_scope.md R10), what the host writes (42_host_sequencer.md R217 to
R220), and the constants without a body that stand for what the spec leaves open. -/

namespace Sys2Proof

/-- One binary output file, known by its segment's base address and, for a gap-simulated segment, its starting
offset (42_host_sequencer.md R218); the name itself is "any value" (93_implementation_defined.md Part A). -/
structure BinFile where
  baseAddress : Word32
  startOffset : Option Word16
  bytes       : List Byte
  deriving DecidableEq, Repr, Inhabited

/-- What stands in the text file (42_host_sequencer.md R219, R220), before it is spelled as characters. -/
inductive TextItem where
  /-- The opening of a segment's array declaration. -/
  | arrayOpen (baseAddress : Word32) (startOffset : Option Word16)
  /-- The indent that leads a row. -/
  | indent
  /-- One byte token. -/
  | byte (b : Byte)
  /-- The line break after a complete row. -/
  | lineBreak
  /-- The trailer: the byte count and the CRC (R217). -/
  | trailer (size : Word32) (crc : Word24)
  deriving DecidableEq, Repr, Inhabited

/-- The files of a run: the closed binary files in the order they were closed, and the one text file (no item: the
file does not exist). -/
structure Output where
  binaries : List BinFile
  text     : List TextItem
  deriving DecidableEq, Repr, Inhabited

/-- TRAILING_POLICY (92_eei_decisions.md D10): what REC.DEC does with characters after the checksum. -/
inductive TrailingPolicy where
  | fault
  | ignore
  deriving DecidableEq, Repr

/-- The open parameters of REC.DEC. -/
structure LineParams where
  startCodeCheck : Bool
  trailing       : TrailingPolicy
  deriving DecidableEq, Repr

namespace Config

/-- CRC_INIT (R10). -/
def crcInit : Word24 := 0

/-- CRC_POLY (R10): bits 23, 4, 3, 1, 0. -/
def crcPoly : Word24 := 0x80001B

/-- CRC_ODD_FILL (R10). -/
def crcOddFill : Byte := 0

/-- The start code `:` (30_encoding.md R90). -/
def startCode : Byte := 0x3A

/-- START_CODE_CHECK on and TRAILING_POLICY fault, the spec's defaults (R10; log 8). -/
def lineParams : LineParams := { startCodeCheck := true, trailing := .fault }

/-- Free value (log 9): the outputs of a run the host refused to go on with (42_host_sequencer.md R227, R229), for
each use of the counter. -/
opaque unclaimedOutput : Nat → Output

/-- Free value (log 24): the base of a segment whose shifted value does not fit 32 bits, for the shift and the value
(42_host_sequencer.md R209 with 00_scope.md R13 gives no mask and R231 a `u32`). -/
opaque oversizedBase : Nat → Word16 → Word32

/-- `<inputBaseName>` of 42_host_sequencer.md R218, made from the input path in a way the spec does not give (log 16). -/
opaque inputBaseName : List Byte → List Byte

/-- TEXT_INDENT (92_eei_decisions.md D32; log 16). -/
opaque textIndent : List Byte

/-- TEXT_ELEMENT_TYPE, with whatever separates it from the array name (D32; log 16). -/
opaque textElementType : List Byte

/-- TEXT_NEWLINE (D32; log 16). -/
opaque textNewline : List Byte

/-- What stands between the opening brace of an array and its first row (42_host_sequencer.md R219 gives no line
breaks around the braces; log 16). -/
opaque textAfterOpen : List Byte

/-- What stands between the last token of an array and its closing brace (log 16). -/
opaque textBeforeClose : List Byte

/-- What stands after a trailer comment (log 16). -/
opaque textAfterTrailer : List Byte

end Config

end Sys2Proof
end

