-- ==== Sys2Proof/Record.lean ====
section
/-! DEFINITION. The record a line decodes to (10_state.md R38, 30_encoding.md R99). -/

namespace Sys2Proof

/-- The six record types of 30_encoding.md R99. -/
inductive RecordType where
  | data
  | endOfFile
  | extendedSegmentAddress
  | startSegmentAddress
  | extendedLinearAddress
  | startLinearAddress
  deriving DecidableEq, Repr, Inhabited

/-- The operands of a record form: everything in the line but the start code and the type. -/
structure RecordFields where
  byteCount : Byte
  address   : Word16
  payload   : List Byte
  checksum  : Byte
  deriving DecidableEq, Repr, Inhabited

/-- `HexRecord`, the response of REC.DEC (10_state.md R38). -/
structure HexRecord where
  byteCount  : Byte
  address    : Word16
  recordType : RecordType
  payload    : List Byte
  checksum   : Byte
  deriving DecidableEq, Repr, Inhabited

/-- The record made of a type and its operands. -/
def RecordFields.toRecord (t : RecordType) (r : RecordFields) : HexRecord :=
  { byteCount := r.byteCount, address := r.address, recordType := t, payload := r.payload,
    checksum := r.checksum }

end Sys2Proof
end

