-- ==== Sys2Proof/Syntax.lean ====
section
/-! DEFINITION. The fourteen rows of spec/opcode_table.json. -/

namespace Sys2Proof

/-- One constructor per row: the six record forms (30_encoding.md R99) and the eight operations (R105). -/
inductive Instr where
  /-- REC.DATA, type 0x00 (41_record_decoder.md R166). -/
  | recData (r : RecordFields)
  /-- REC.EOF, type 0x01 (R167). -/
  | recEof (r : RecordFields)
  /-- REC.ESA, type 0x02 (R168). -/
  | recEsa (r : RecordFields)
  /-- REC.SSA, type 0x03 (R169). -/
  | recSsa (r : RecordFields)
  /-- REC.ELA, type 0x04 (R170). -/
  | recEla (r : RecordFields)
  /-- REC.SLA, type 0x05 (R171). -/
  | recSla (r : RecordFields)
  /-- BLK.RESET (R174). -/
  | blkReset
  /-- BLK.STAT (R173). -/
  | blkStat
  /-- CRC.CLR (40_crc24_ops.md R136). -/
  | crcClr
  /-- CRC.SEED (R137). -/
  | crcSeed (v : Word24)
  /-- CRC.FOLD (R138). -/
  | crcFold (buf : Buffer)
  /-- CRC.RD (R139). -/
  | crcRd
  /-- CRC.RDB (R140). -/
  | crcRdb
  /-- REC.DEC (41_record_decoder.md R160). -/
  | recDec (line : Line)
  deriving DecidableEq, Repr, Inhabited

end Sys2Proof
end

