-- ==== Sys2Proof/WellFormed.lean ====
section
/-! DEFINITION. Which instruction terms the encodings can spell. -/

namespace Sys2Proof

/-- "`payload` has exactly `byteCount` elements" (10_state.md R38). -/
def RecordFields.wellFormed (r : RecordFields) : Bool :=
  r.payload.length == r.byteCount.toNat

/-- The check of each constructor. The operands of the eight operations are of their type whatever they are: a 24-bit
seed (40_crc24_ops.md R137), a buffer of any length (R138), a line of any length (41_record_decoder.md R160). -/
def Instr.wellFormed : Instr → Bool
  | .recData r => r.wellFormed
  | .recEof r => r.wellFormed
  | .recEsa r => r.wellFormed
  | .recSsa r => r.wellFormed
  | .recEla r => r.wellFormed
  | .recSla r => r.wellFormed
  | .blkReset => true
  | .blkStat => true
  | .crcClr => true
  | .crcSeed _ => true
  | .crcFold _ => true
  | .crcRd => true
  | .crcRdb => true
  | .recDec _ => true

end Sys2Proof
end

