-- ==== Sys2Proof/Decode.lean ====
section
/-! DEFINITION. The decoder, total on any bytes and rejecting by name, and the encoder (30_encoding.md). -/

namespace Sys2Proof

/-- The two things that are encoded in this hardware (30_encoding.md): an operation packet, framed by the transport
(R106), and a record line (R91). -/
inductive Encoded where
  | packet (bytes : List Byte)
  | line (chars : Line)
  deriving DecidableEq, Repr

/-- Why a packet spells no operation or a line no record form. -/
inductive DecodeError where
  /-- A packet of no bytes (log 3). -/
  | emptyPacket
  /-- A code outside the eight (30_encoding.md R107). -/
  | undefinedCode (code : Byte)
  /-- An operand of a length the operation does not have (log 3). -/
  | operandLength
  /-- 60_exceptions.md R251 (a). -/
  | truncatedHeader
  /-- R251 (b). -/
  | startCode
  /-- R251 (c). -/
  | headerDigit
  /-- R251 (d). -/
  | recordLength
  /-- R251 (e). -/
  | bodyDigit
  /-- R251 (f). -/
  | recordType
  deriving DecidableEq, Repr

/-! ### Hexadecimal text (00_scope.md R16, 30_encoding.md R93 to R95) -/

/-- `hexval`: the value of one hexadecimal character of either case, `none` for `bad` (R93). -/
def hexVal (c : Byte) : Option (BitVec 4) :=
  if 0x30 ≤ c ∧ c ≤ 0x39 then some ((c - 0x30).setWidth 4)
  else if 0x41 ≤ c ∧ c ≤ 0x46 then some ((c - 0x37).setWidth 4)
  else if 0x61 ≤ c ∧ c ≤ 0x66 then some ((c - 0x57).setWidth 4)
  else none

/-- A byte from two characters, high nibble first (R94). -/
def hexPair (h l : Byte) : Option Byte :=
  match hexVal h, hexVal l with
  | some hi, some lo => some (hi ++ lo)
  | _, _ => none

/-- `LineChar(line, o)` (00_scope.md R15). -/
def lineChar (chars : Line) (o : Nat) : Option Byte := chars[o]?

/-- `hex2(line, o)` (R16). -/
def hex2 (line : Line) (o : Nat) : Option Byte :=
  match lineChar line o, lineChar line (o + 1) with
  | some h, some l => hexPair h l
  | _, _ => none

/-- `hex4(line, o)` (R16, R95). -/
def hex4 (line : Line) (o : Nat) : Option Word16 :=
  match hex2 line o, hex2 line (o + 2) with
  | some hi, some lo => some (hi ++ lo)
  | _, _ => none

/-- The first `n` bytes spelled by a run of characters, two characters each, in order (R96). -/
def hexRun : Nat → Line → Option (List Byte)
  | 0, _ => some []
  | n + 1, h :: l :: rest =>
    match hexPair h l, hexRun n rest with
    | some b, some bs => some (b :: bs)
    | _, _ => none
  | _ + 1, [_] => none
  | _ + 1, [] => none

/-! ### Record types (30_encoding.md R99, R101) -/

/-- The type byte of a record type. -/
def RecordType.code : RecordType → Byte
  | .data => 0x00
  | .endOfFile => 0x01
  | .extendedSegmentAddress => 0x02
  | .startSegmentAddress => 0x03
  | .extendedLinearAddress => 0x04
  | .startLinearAddress => 0x05

/-- `type(t)` of 41_record_decoder.md R161; 0x06 to 0xFF are illegal. -/
def RecordType.ofCode (t : Byte) : Option RecordType :=
  if t = 0x00 then some .data
  else if t = 0x01 then some .endOfFile
  else if t = 0x02 then some .extendedSegmentAddress
  else if t = 0x03 then some .startSegmentAddress
  else if t = 0x04 then some .extendedLinearAddress
  else if t = 0x05 then some .startLinearAddress
  else none

/-- The record form of a type. -/
def Instr.ofRecord : RecordType → RecordFields → Instr
  | .data, r => .recData r
  | .endOfFile, r => .recEof r
  | .extendedSegmentAddress, r => .recEsa r
  | .startSegmentAddress, r => .recSsa r
  | .extendedLinearAddress, r => .recEla r
  | .startLinearAddress, r => .recSla r

/-! ### Lines -/

/-- Whether a line of `len` characters has the wrong length for byteCount `n` (30_encoding.md R97, R104). -/
def badLength (trailing : TrailingPolicy) (len n : Nat) : Bool :=
  match trailing with
  | .fault => len != 11 + 2 * n
  | .ignore => decide (len < 11 + 2 * n)

/-- Stages 3 and 4 of 41_record_decoder.md R161: payload, checksum, type. -/
def parseBody (line : Line) (n : Byte) (a : Word16) (t : Byte) : Except DecodeError (RecordType × RecordFields) :=
  match hexRun n.toNat (line.drop 9), hex2 line (9 + 2 * n.toNat) with
  | some payload, some ck =>
    match RecordType.ofCode t with
    | some ty => .ok (ty, { byteCount := n, address := a, payload := payload, checksum := ck })
    | none => .error .recordType
  | _, _ => .error .bodyDigit

/-- Stages 1 to 4 of 41_record_decoder.md R161, tested in the order of 60_exceptions.md R251. -/
def parseRecord (p : LineParams) (line : Line) : Except DecodeError (RecordType × RecordFields) :=
  if line.length < 9 then .error .truncatedHeader
  else if p.startCodeCheck && lineChar line 0 != some Config.startCode then .error .startCode
  else
    match hex2 line 1, hex4 line 3, hex2 line 7 with
    | some n, some a, some t =>
      if badLength p.trailing line.length n.toNat then .error .recordLength
      else parseBody line n a t
    | _, _, _ => .error .headerDigit

/-- The record form a line spells. -/
def decodeLine (line : Line) : Except DecodeError Instr :=
  match parseRecord Config.lineParams line with
  | .ok (t, r) => .ok (.ofRecord t r)
  | .error e => .error e

/-! ### Operation packets (30_encoding.md R106, R107) -/

/-- An operation without an operand. -/
def bareOperation (i : Instr) (operand : List Byte) : Except DecodeError Instr :=
  match operand with
  | [] => .ok i
  | _ :: _ => .error .operandLength

/-- The operation a packet spells: the code, then the operand. -/
def decodePacket : List Byte → Except DecodeError Instr
  | [] => .error .emptyPacket
  | code :: operand =>
    if code = 0xFF then bareOperation .blkReset operand
    else if code = 0x20 then bareOperation .blkStat operand
    else if code = 0x01 then bareOperation .crcClr operand
    else if code = 0x02 then
      match operand with
      | [hi, mid, lo] => .ok (.crcSeed (hi ++ mid ++ lo))
      | _ => .error .operandLength
    else if code = 0x03 then .ok (.crcFold operand)
    else if code = 0x04 then bareOperation .crcRd operand
    else if code = 0x05 then bareOperation .crcRdb operand
    else if code = 0x10 then .ok (.recDec operand)
    else .error (.undefinedCode code)

/-- The decoder. -/
def decode : Encoded → Except DecodeError Instr
  | .packet bytes => decodePacket bytes
  | .line chars => decodeLine chars

/-! ### The encoder -/

/-- The upper-case hexadecimal character of a digit. -/
def hexDigit (d : BitVec 4) : Byte :=
  if d < 10 then 0x30 + d.setWidth 8 else 0x37 + d.setWidth 8

/-- A byte as two characters, high nibble first (30_encoding.md R94). -/
def hexByte (b : Byte) : Line :=
  [hexDigit (b.extractLsb' 4 4), hexDigit (b.extractLsb' 0 4)]

/-- `addressHi` (30_encoding.md R95). -/
def addressHi (a : Word16) : Byte := a.extractLsb' 8 8

/-- `addressLo` (R95). -/
def addressLo (a : Word16) : Byte := a.extractLsb' 0 8

/-- The line of a record (30_encoding.md R91). -/
def encodeRecord (t : RecordType) (r : RecordFields) : Line :=
  Config.startCode :: (hexByte r.byteCount ++ hexByte (addressHi r.address) ++ hexByte (addressLo r.address)
    ++ hexByte t.code ++ r.payload.flatMap hexByte ++ hexByte r.checksum)

/-- The words of an instruction. -/
def encode : Instr → Encoded
  | .recData r => .line (encodeRecord .data r)
  | .recEof r => .line (encodeRecord .endOfFile r)
  | .recEsa r => .line (encodeRecord .extendedSegmentAddress r)
  | .recSsa r => .line (encodeRecord .startSegmentAddress r)
  | .recEla r => .line (encodeRecord .extendedLinearAddress r)
  | .recSla r => .line (encodeRecord .startLinearAddress r)
  | .blkReset => .packet [0xFF]
  | .blkStat => .packet [0x20]
  | .crcClr => .packet [0x01]
  | .crcSeed v => .packet [0x02, v.extractLsb' 16 8, v.extractLsb' 8 8, v.extractLsb' 0 8]
  | .crcFold buf => .packet (0x03 :: buf)
  | .crcRd => .packet [0x04]
  | .crcRdb => .packet [0x05]
  | .recDec line => .packet (0x10 :: line)

/-! ### The table's numbering of bits (log 19) -/

/-- Byte `k` of a table word, byte 0 its least significant. -/
def tableByte (w k : Nat) : Byte := BitVec.ofNat 8 (w / 2 ^ (8 * k))

/-- The packet of an OP8 row: the code is bits 7..0, operand bytes follow in rising bits. Of the operations only
CRC.SEED has an operand of fixed length; the bytes of it that the row gives no bits are zero. -/
def tablePacket (nbits w : Nat) : List Byte :=
  let given := (List.range (nbits / 8)).map (tableByte w)
  if given.head? = some 0x02 then given ++ List.replicate (4 - given.length) 0 else given

/-- The line of a HEXRECORD row: bits 31..24 are LL, 23..8 AAAA, 7..0 TT (the table's note), and what the row gives
no bits, the payload of LL bytes and the checksum, is zero. -/
def tableLine (w : Nat) : Line :=
  Config.startCode :: ([3, 2, 1, 0].flatMap (fun k => hexByte (tableByte w k))
    ++ (List.replicate (tableByte w 3).toNat 0).flatMap hexByte ++ hexByte 0)

/-- What a table word of `nbits` bits stands for: HEXRECORD rows have 32 bits, OP8 rows 8. -/
def tableWord (nbits w : Nat) : Encoded :=
  if nbits = 32 then .line (tableLine w) else .packet (tablePacket nbits w)

/-- The instruction the decoder reads from a table word. -/
def decodeTableWord (nbits w : Nat) : Option Instr :=
  match decode (tableWord nbits w) with
  | .ok i => some i
  | .error _ => none

end Sys2Proof
end

