-- ==== Sys2Proof/Machine/State.lean ====
section
/-! DEFINITION. The state: the block (10_state.md), the host that drives it (42_host_sequencer.md R204), and the model's
own fields (inputs not yet taken, the last step's traffic, the free-value counter). -/

namespace Sys2Proof.Machine

/-! ### The block -/

/-- The four values of ERR.KIND (10_state.md R36, 60_exceptions.md R250). -/
inductive ErrKind where
  /-- No error since reset, code 0. -/
  | clear
  /-- Code 1. -/
  | malformedRecord
  /-- Code 2. -/
  | checksumMismatch
  /-- Code 3, the host's, never held by the block (R36). -/
  | inputNotFound
  deriving DecidableEq, Repr, Inhabited

/-- The register `ERR` (10_state.md R36). -/
structure ErrReg where
  kind     : ErrKind
  expected : Byte
  actual   : Byte
  deriving DecidableEq, Repr, Inhabited

/-- The whole state of the block (10_state.md R30). -/
structure Block where
  crc : Word24
  err : ErrReg
  deriving DecidableEq, Repr, Inhabited

/-- An error with the fields its kind records (60_exceptions.md R250). -/
inductive ErrorValue where
  | malformedRecord (line : Line)
  | checksumMismatch (record : HexRecord) (expected actual : Byte)
  | inputNotFound (path : List Byte)
  deriving DecidableEq, Repr

/-- What the block answers an operation with (30_encoding.md R105, R107; 00_scope.md R17). -/
inductive Response where
  | ok
  | crcValue (v : Word24)
  | crcBytes (bs : List Byte)
  | status (kind : BitVec 2) (expected actual : Byte)
  | record (r : HexRecord)
  | raised (e : ErrorValue)
  | refused
  deriving DecidableEq, Repr

/-- What was asked of the block: an operation, or a packet that spells none. -/
inductive Request where
  | operation (i : Instr)
  | unknown (packet : List Byte)
  deriving DecidableEq, Repr

/-- One operation and its response. -/
structure Exchange where
  request  : Request
  response : Response
  deriving DecidableEq, Repr

/-! ### The host -/

/-- BACKWARD_RECORD_POLICY (92_eei_decisions.md D25). -/
inductive BackwardPolicy where
  | refuse
  | fault
  | append
  deriving DecidableEq, Repr

/-- MISSING_EOF_POLICY (D26). -/
inductive MissingEofPolicy where
  | refuse
  | finalize
  deriving DecidableEq, Repr

/-- The configuration of a run with the document's defaults (42_host_sequencer.md R201), and the host's open parameters
with the spec's (R209, R227, R229). -/
structure RunConfig where
  path       : List Byte := []
  base       : Word32 := 0
  pad        : Byte := 0xFF
  target     : Nat := 0
  align      : Nat := 16
  gapmax     : Nat := 0
  crc        : Bool := false
  elaShift   : Nat := 8
  backward   : BackwardPolicy := .refuse
  missingEof : MissingEofPolicy := .refuse
  deriving DecidableEq, Repr

/-- The open segment (42_host_sequencer.md R204); its `crc` is the block's register (10_state.md R41). -/
structure Segment where
  baseAddress   : Word32
  size          : Word32
  runningOffset : Word32
  startOffset   : Option Word16
  deriving DecidableEq, Repr

/-- The state machine of R205; an open segment comes with its open binary sink. -/
inductive Phase where
  | noSegment
  | segmentOpen (seg : Segment) (bin : BinFile)
  | closed
  deriving DecidableEq, Repr

/-- Why the host stopped a run without a claim about its outputs (log 9). -/
inductive RefuseReason where
  /-- A Data record below `runningOffset` (R227). -/
  | backwardRecord
  /-- The input ended without an EndOfFile record (R229). -/
  | missingEndOfFile
  /-- A segment of 2^32 bytes or more (R231; log 11). -/
  | sizeOverflow
  /-- The block was Faulted when a line was to be given to it, or the run finalized without one (log 12). -/
  | blockRefused
  deriving DecidableEq, Repr

/-- Whether a run is on, and how the last one that began ended (70_reset_and_hazards.md R304). -/
inductive RunStatus where
  /-- No run since power-on. -/
  | idle
  | running
  /-- (a): an EndOfFile record was processed. -/
  | finished
  /-- (b): an error aborted the run. A run that ends by (c) never began, and is told by `State.report` alone. -/
  | aborted (e : ErrorValue)
  /-- The host gave the run up without a claim. -/
  | stopped (why : RefuseReason)
  deriving DecidableEq, Repr

/-- A run asked for: its configuration and the lines of its input file, none when the file does not exist. -/
structure Launch where
  cfg  : RunConfig
  file : Option (List Line)
  deriving DecidableEq, Repr

/-- The host's state. -/
structure HostState where
  cfg      : RunConfig
  status   : RunStatus
  phase    : Phase
  segCount : Nat
  line     : Line
  input    : List Line
  textOpen : Bool
  output   : Output
  deriving DecidableEq, Repr

/-- The machine. `report` is the error the last step reported to the host's caller (42_host_sequencer.md R223, R224; the
model's own field, log 25). -/
structure State where
  block   : Block
  host    : HostState
  port    : List (List Byte)
  launch  : Option Launch
  traffic : List Exchange
  report  : Option ErrorValue
  free    : Nat
  deriving DecidableEq, Repr

/-- What a step works on. -/
inductive Work where
  /-- An operation packet or a line, for the decoder. -/
  | encoded (e : Encoded)
  | launch (l : Launch)
  | endOfInput
  | idle
  deriving DecidableEq, Repr

/-- No step of this model faults: the spec's error kinds are responses after which the block goes on
(60_exceptions.md R256), so there is no constructor (log 20). -/
inductive Fault where
  deriving DecidableEq, Repr

/-- The only refusal is the dispatcher's, for an instruction without a meaning. -/
inductive Refusal where
  /-- Raised by `exec` for an instruction that has no meaning yet; safe. No arm raises it. -/
  | notModelled (mnemonic : String)
  deriving DecidableEq, Repr

/-- The block after reset (70_reset_and_hazards.md R290). -/
def Block.initial : Block :=
  { crc := 0x000000, err := { kind := .clear, expected := 0, actual := 0 } }

/-- The host before any run: R201's defaults and NoSegment (10_state.md R42). DESIGN CHOICE (log 5), where the spec gives no
power-on value: no run, segment count 0 (R202 sets it when a run starts), nothing read, nothing written. -/
def HostState.initial : HostState :=
  { cfg := {}, status := .idle, phase := .noSegment, segCount := 0, line := [], input := [], textOpen := false,
    output := { binaries := [], text := [] } }

/-- The machine right after power-on. -/
def State.reset : State :=
  { block := .initial, host := .initial, port := [], launch := none, traffic := [], report := none, free := 0 }

end Sys2Proof.Machine
end

