-- ==== Sys2Proof/Machine/Operands.lean ====
section
/-! DEFINITION. How operands are read and put together (20_memory.md, 41_record_decoder.md R162, R163). -/

namespace Sys2Proof.Machine

/-- `BufRead(buf, i)`; the one index past the end of an odd buffer reads as 0x00 (20_memory.md R62). -/
def bufRead (buf : Buffer) (i : Nat) : Byte := buf.getD i Config.crcOddFill

/-- The fold's word: the byte that comes first is bits 7..0 (20_memory.md R65). -/
def pairWord (lo hi : Byte) : Word16 := hi ++ lo

/-- The read-out order of CRC.RDB: most significant byte first (20_memory.md R67). -/
def crcBytes (c : Word24) : List Byte := [c.extractLsb' 16 8, c.extractLsb' 8 8, c.extractLsb' 0 8]

/-- `payload-as-u16`, big-endian (20_memory.md R68); a missing byte, which no address record reaching here lacks, is 0. -/
def payloadWord (payload : List Byte) : Word16 := payload.getD 0 0 ++ payload.getD 1 0

/-- `zext_32(v) << shift` as a segment base (42_host_sequencer.md R208, R209). R13 takes the shifted value at width
32 + shift, and a base is a `u32` (R231): DESIGN CHOICE (log 24), a value that does not fit, which takes an ELA_SHIFT above
16, gives a free value. -/
def segmentBase (shift : Nat) (v : Word16) : Word32 :=
  if v.toNat * 2 ^ shift < 2 ^ 32 then BitVec.ofNat 32 (v.toNat * 2 ^ shift) else Config.oversizedBase shift v

/-- The sum modulo 256 of the bytes before the checksum (41_record_decoder.md R162). -/
def headSum (t : RecordType) (r : RecordFields) : Byte :=
  r.byteCount + addressHi r.address + addressLo r.address + t.code + r.payload.sum

/-- The sum modulo 256 of all decoded bytes (41_record_decoder.md R162). -/
def recordSum (t : RecordType) (r : RecordFields) : Byte := headSum t r + r.checksum

/-- `expected`, computed as `(ck - s) mod 256` (41_record_decoder.md R161, R163). -/
def expectedChecksum (t : RecordType) (r : RecordFields) : Byte := r.checksum - recordSum t r

end Sys2Proof.Machine
end

