-- ==== Sys2Proof/Machine/Crc24.lean ====
section
/-! DEFINITION. The functions of the CRC unit (40_crc24_ops.md R130, R131). -/

namespace Sys2Proof.Machine

/-- One step at 25 bits, the tested bit dropped at the end (40_crc24_ops.md R130). -/
def crc24Step (c : Word24) (w : Word16) : Word24 :=
  let t : BitVec 25 := (c.zeroExtend 25 <<< 1) ^^^ w.zeroExtend 25
  let u : BitVec 25 := if t.getLsbD 24 then t ^^^ Config.crcPoly.zeroExtend 25 else t
  u.setWidth 24

/-- The fold: pairs from index 0, an odd buffer completed with one zero byte (40_crc24_ops.md R131). -/
def crc24 : Word24 → Buffer → Word24
  | c, [] => c
  | c, [lo] => crc24Step c (pairWord lo Config.crcOddFill)
  | c, lo :: hi :: rest => crc24 (crc24Step c (pairWord lo hi)) rest

end Sys2Proof.Machine
end

