-- ==== Sys2Proof/Machine/Flags.lean ====
section
/-! DEFINITION. The block has no condition flag (10_state.md R35); its one status is the latch `ERR`. -/

namespace Sys2Proof.Machine

/-- The 2-bit code of ERR.KIND (10_state.md R36). -/
def ErrKind.code : ErrKind → BitVec 2
  | .clear => 0
  | .malformedRecord => 1
  | .checksumMismatch => 2
  | .inputNotFound => 3

/-- `None` with both bytes 0 (R36). -/
def ErrReg.empty : ErrReg := { kind := .clear, expected := 0, actual := 0 }

/-- What a raise writes into `ERR` (60_exceptions.md R256). -/
def ErrReg.ofError : ErrorValue → ErrReg
  | .malformedRecord _ => { kind := .malformedRecord, expected := 0, actual := 0 }
  | .checksumMismatch _ expected actual => { kind := .checksumMismatch, expected := expected, actual := actual }
  | .inputNotFound _ => { kind := .inputNotFound, expected := 0, actual := 0 }

/-- "The block is Faulted when `ERR.KIND` is not 0" (60_exceptions.md R259). -/
def Block.faulted (b : Block) : Bool := b.err.kind.code != 0

end Sys2Proof.Machine
end

