-- ==== Sys2Proof/Machine/Ops.lean ====
section
/-! DEFINITION. The block's operations on its own state, raising an error and leaving the Faulted state, and how an
operation issued by the host becomes one exchange. Every function answers the block after it and the response. -/

namespace Sys2Proof.Machine

/-- Raising (60_exceptions.md R256): `ERR` is written, `CRC` is left, the response is the error with all its fields.
No pc, vector or mode exists (R256: "control does not go anywhere inside the block"). -/
def Block.raise (e : ErrorValue) (b : Block) : Block × Response :=
  ({ b with err := ErrReg.ofError e }, .raised e)

/-- BLK.RESET (41_record_decoder.md R174), the only way out of the Faulted state; there is no return from an error
(60_exceptions.md R260). -/
def Block.clearAll (_ : Block) : Block × Response :=
  ({ crc := Config.crcInit, err := ErrReg.empty }, .ok)

/-- An operation that is refused while Faulted, with no state change (60_exceptions.md R259). -/
def Block.guarded (op : Block → Block × Response) (b : Block) : Block × Response :=
  if b.faulted then (b, .refused) else op b

/-- BLK.STAT (41_record_decoder.md R173). -/
def Block.stat (b : Block) : Block × Response :=
  (b, .status b.err.kind.code b.err.expected b.err.actual)

/-- CRC.CLR (40_crc24_ops.md R136). -/
def Block.clear : Block → Block × Response :=
  Block.guarded fun b => ({ b with crc := Config.crcInit }, .ok)

/-- CRC.SEED (R137). -/
def Block.seed (v : Word24) : Block → Block × Response :=
  Block.guarded fun b => ({ b with crc := v }, .ok)

/-- CRC.FOLD (R138). -/
def Block.fold (buf : Buffer) : Block → Block × Response :=
  Block.guarded fun b => ({ b with crc := crc24 b.crc buf }, .ok)

/-- CRC.RD (R139). -/
def Block.read : Block → Block × Response :=
  Block.guarded fun b => (b, .crcValue b.crc)

/-- CRC.RDB (R140). -/
def Block.readBytes : Block → Block × Response :=
  Block.guarded fun b => (b, .crcBytes (crcBytes b.crc))

/-- Stage 5 of 41_record_decoder.md R161: the checksum law (R162) on an extracted record. -/
def Block.checkRecord (t : RecordType) (r : RecordFields) (b : Block) : Block × Response :=
  if recordSum t r = 0 then (b, .record (r.toRecord t))
  else b.raise (.checksumMismatch (r.toRecord t) (expectedChecksum t r) r.checksum)

/-- REC.DEC on a line already known to spell the record form `t` with operands `r`. -/
def Block.decodeRecord (t : RecordType) (r : RecordFields) : Block → Block × Response :=
  Block.guarded (Block.checkRecord t r)

/-- REC.DEC (41_record_decoder.md R161), all stages, under given line parameters. -/
def Block.decodeLineWith (p : LineParams) (line : Line) : Block → Block × Response :=
  Block.guarded fun b =>
    match parseRecord p line with
    | .ok (t, r) => b.checkRecord t r
    | .error _ => b.raise (.malformedRecord line)

/-- REC.DEC with this hardware's line parameters. -/
def Block.decodeLine (line : Line) : Block → Block × Response :=
  Block.decodeLineWith Config.lineParams line

/-! ### One exchange -/

/-- The host issues instruction `i`, the block performs `op`, and the response goes to the host (10_state.md R38). -/
def State.issue (i : Instr) (op : Block → Block × Response) (s : State) : State :=
  { s with
    block := (op s.block).1
    traffic := s.traffic ++ [{ request := .operation i, response := (op s.block).2 }] }

/-- A packet that spells no operation: no state change, response `Refused` (30_encoding.md R107; log 3). -/
def State.refusePacket (packet : List Byte) (s : State) : State :=
  { s with traffic := s.traffic ++ [{ request := .unknown packet, response := .refused }] }

/-- The host's part of the state replaced. -/
def State.withHost (s : State) (h : HostState) : State := { s with host := h }

end Sys2Proof.Machine
end

