-- ==== Sys2Proof/Machine/BlockUnit.lean ====
section
/-! DEFINITION. The meanings of BLK.RESET, BLK.STAT and REC.DEC (41_record_decoder.md R160, R173, R174). -/

namespace Sys2Proof.Machine

/-- BLK.RESET (R174): never refused, and nothing of the host is touched (70_reset_and_hazards.md R291). -/
def execBlkReset (s : State) : Host.Outcome State Fault Refusal := .next (s.issue .blkReset Block.clearAll)

/-- BLK.STAT (R173): answered in the Faulted state too. -/
def execBlkStat (s : State) : Host.Outcome State Fault Refusal := .next (s.issue .blkStat Block.stat)

/-- REC.DEC (R160, R161). -/
def execRecDec (line : Line) (s : State) : Host.Outcome State Fault Refusal :=
  .next (s.issue (.recDec line) (Block.decodeLine line))

end Sys2Proof.Machine
end

