-- ==== Sys2Proof/Machine/CrcUnit.lean ====
section
/-! DEFINITION. The meanings of the CRC unit's operations (40_crc24_ops.md R136 to R140). -/

namespace Sys2Proof.Machine

/-- CRC.CLR (R136). -/
def execCrcClr (s : State) : Host.Outcome State Fault Refusal := .next (s.issue .crcClr Block.clear)

/-- CRC.SEED (R137). -/
def execCrcSeed (v : Word24) (s : State) : Host.Outcome State Fault Refusal :=
  .next (s.issue (.crcSeed v) (Block.seed v))

/-- CRC.FOLD (R138). -/
def execCrcFold (buf : Buffer) (s : State) : Host.Outcome State Fault Refusal :=
  .next (s.issue (.crcFold buf) (Block.fold buf))

/-- CRC.RD (R139). -/
def execCrcRd (s : State) : Host.Outcome State Fault Refusal := .next (s.issue .crcRd Block.read)

/-- CRC.RDB (R140). -/
def execCrcRdb (s : State) : Host.Outcome State Fault Refusal := .next (s.issue .crcRdb Block.readBytes)

end Sys2Proof.Machine
end

