-- ==== Sys2Proof/Machine/SegmentEngine.lean ====
section
/-! DEFINITION. The host's segment engine, its two sinks, and padding and finalization (42_host_sequencer.md R206 to
R221, R223, R227 to R231). -/

namespace Sys2Proof.Machine

/-! ### Ends of a run -/

/-- The closed binary files once the open one, if any, is closed as it stands. -/
def HostState.allBinaries (h : HostState) : List BinFile :=
  match h.phase with
  | .segmentOpen _ bin => h.output.binaries ++ [bin]
  | .noSegment => h.output.binaries
  | .closed => h.output.binaries

/-- `abort` (42_host_sequencer.md R223): both sinks closed, the files left as they are, no trailer, the error reported to
the caller (log 13). -/
def abort (e : ErrorValue) (s : State) : State :=
  { s with
    host :=
      { s.host with
        status := .aborted e
        phase := .closed
        textOpen := false
        output := { s.host.output with binaries := s.host.allBinaries } }
    report := some e }

/-- `host_refuse` (R227): the run stops without a claim about its outputs, which are a free value from here on (log 9). -/
def hostRefuse (why : RefuseReason) (s : State) : State :=
  { s with
    host :=
      { s.host with
        status := .stopped why
        phase := .closed
        textOpen := false
        output := Config.unclaimedOutput s.free }
    free := s.free + 1 }

/-- The end of a host action: it went on to `t`, or it ended the run on the way and left `t`. -/
def settle : Except State State → State
  | .ok t => t
  | .error t => t

/-! ### The sinks -/

/-- The text of a buffer whose first byte stands at position `p` of its segment (R220). -/
def textRow (align : Nat) : Nat → List Byte → List TextItem
  | _, [] => []
  | p, b :: bs =>
    (if 0 < align ∧ p % align = 0 then [.indent] else []) ++ [.byte b]
      ++ (if 0 < align ∧ (p + 1) % align = 0 then [.lineBreak] else []) ++ textRow align (p + 1) bs

/-- Bytes written to both sinks and counted in `size`, not folded. A segment never reaches 2^32 bytes (R231; log 11). -/
def emit (buf : List Byte) (s : State) : Except State State :=
  match s.host.phase with
  | .segmentOpen seg bin =>
    if seg.size.toNat + buf.length < 2 ^ 32 then
      .ok (s.withHost
        { s.host with
          phase := .segmentOpen { seg with size := seg.size + BitVec.ofNat 32 buf.length }
            { bin with bytes := bin.bytes ++ buf }
          output := { s.host.output with text := s.host.output.text ++ textRow s.host.cfg.align seg.size.toNat buf } })
    else .error (hostRefuse .sizeOverflow s)
  | .noSegment => .ok s
  | .closed => .ok s

/-- `feed` (R207): both sinks, the size, and one CRC.FOLD of exactly the same buffer. -/
def feed (buf : List Byte) (s : State) : Except State State :=
  match emit buf s with
  | .ok t => .ok (t.issue (.crcFold buf) (Block.fold buf))
  | .error e => .error e

/-! ### Segments -/

/-- `close_segment` (R217): the CRC is read, the trailer written, the binary file closed. -/
def closeSegment (s : State) : State :=
  match s.host.phase with
  | .segmentOpen seg bin =>
    (s.issue .crcRd Block.read).withHost
      { s.host with
        phase := .closed
        output :=
          { binaries := s.host.output.binaries ++ [bin]
            text := s.host.output.text ++ [.trailer seg.size s.block.crc] } }
  | .noSegment => s
  | .closed => s

/-- `open_segment` (R206): the current segment is closed, the new one counted, CRC.CLR issued, the sinks opened. -/
def startSegment (base : Word32) (off : Option Word16) (s : State) : State :=
  let s1 := (closeSegment s).issue .crcClr Block.clear
  s1.withHost
    { s1.host with
      phase := .segmentOpen
        { baseAddress := base, size := 0, runningOffset := (off.getD 0).zeroExtend 32, startOffset := off }
        { baseAddress := base, startOffset := off, bytes := [] }
      segCount := s1.host.segCount + 1
      textOpen := true
      output := { s1.host.output with text := s1.host.output.text ++ [.arrayOpen base off] } }

/-! ### Data records -/

/-- `runningOffset` after a Data record: its offset plus its byteCount (R211). -/
def advance (r : HexRecord) (s : State) : State :=
  match s.host.phase with
  | .segmentOpen seg bin =>
    s.withHost
      { s.host with
        phase := .segmentOpen
          { seg with runningOffset := r.address.zeroExtend 32 + r.byteCount.zeroExtend 32 } bin }
  | .noSegment => s
  | .closed => s

/-- `gap`, a signed number (R210). -/
def gapOf (seg : Segment) (r : HexRecord) : Int := (r.address.toNat : Int) - (seg.runningOffset.toNat : Int)

/-- What precedes the payload: nothing, a gap-simulated segment (R212), or the gap's pad bytes as one buffer (R210). -/
def bridgeGap (seg : Segment) (r : HexRecord) (s : State) : Except State State :=
  if s.host.cfg.gapmax ≠ 0 ∧ (s.host.cfg.gapmax : Int) ≤ gapOf seg r then
    .ok (startSegment seg.baseAddress (some r.address) s)
  else if 0 < gapOf seg r then feed (List.replicate (gapOf seg r).toNat s.host.cfg.pad) s
  else .ok s

/-- The payload as one buffer, then the offset (R210, R211). -/
def feedPayload (r : HexRecord) (s : State) : Except State State :=
  match feed r.payload s with
  | .ok t => .ok (advance r t)
  | .error e => .error e

/-- A Data record below `runningOffset` (R227; log 17 for the policies that are not the default). -/
def backwardRecord (r : HexRecord) (s : State) : Except State State :=
  match s.host.cfg.backward with
  | .refuse => .error (hostRefuse .backwardRecord s)
  | .fault => .error (abort (.malformedRecord s.host.line) s)
  | .append => feedPayload r s

/-- A Data record in the open segment (R210). -/
def placeData (r : HexRecord) (s : State) : Except State State :=
  match s.host.phase with
  | .segmentOpen seg _ =>
    if gapOf seg r < 0 then backwardRecord r s
    else
      match bridgeGap seg r s with
      | .ok t => feedPayload r t
      | .error e => .error e
  | .noSegment => .ok s
  | .closed => .ok s

/-- `on_data` (R210). With the run over nothing is done (R205: Closed is terminal; log 14). -/
def onData (r : HexRecord) (s : State) : Except State State :=
  match s.host.phase with
  | .noSegment => placeData r (startSegment s.host.cfg.base none s)
  | .segmentOpen _ _ => placeData r s
  | .closed => .ok s

/-! ### Address records -/

/-- A new segment at a base computed from a two-byte payload; any other byteCount is the host's MalformedRecord (R228).
A base beyond 32 bits is a free value, the model's choice (log 24). -/
def onAddressRecord (shift : Nat) (r : HexRecord) (s : State) : Except State State :=
  match s.host.phase with
  | .closed => .ok s
  | .noSegment =>
    if r.byteCount = 2 then .ok (startSegment (segmentBase shift (payloadWord r.payload)) none s)
    else .error (abort (.malformedRecord s.host.line) s)
  | .segmentOpen _ _ =>
    if r.byteCount = 2 then .ok (startSegment (segmentBase shift (payloadWord r.payload)) none s)
    else .error (abort (.malformedRecord s.host.line) s)

/-- `on_esa` (R208). -/
def onEsa (r : HexRecord) (s : State) : Except State State := onAddressRecord 4 r s

/-- `on_ela` (R209). -/
def onEla (r : HexRecord) (s : State) : Except State State := onAddressRecord s.host.cfg.elaShift r s

/-- StartSegmentAddress and StartLinearAddress: no host action (R214). -/
def onStartAddress (_ : HexRecord) (s : State) : Except State State := .ok s

/-! ### Finalization and the end of the file -/

/-- `k` full rows of pad bytes, one feed each (R221). -/
def feedRows (row : List Byte) : Nat → State → Except State State
  | 0, s => .ok s
  | k + 1, s =>
    match feed row s with
    | .ok t => feedRows row k t
    | .error e => .error e

/-- `n` pad bytes: full rows of `align` bytes, then a partial one; one buffer when rows are off (R221). -/
def padRows (n : Nat) (s : State) : Except State State :=
  let cfg := s.host.cfg
  if 0 < cfg.align then
    match feedRows (List.replicate cfg.align cfg.pad) (n / cfg.align) s with
    | .ok t => if 0 < n % cfg.align then feed (List.replicate (n % cfg.align) cfg.pad) t else .ok t
    | .error e => .error e
  else feed (List.replicate n cfg.pad) s

/-- The CRC trailer bytes: read with CRC.RDB, written to both sinks, counted, not folded (R221, 70 R297). -/
def appendCrc (s : State) : Except State State :=
  emit (crcBytes s.block.crc) (s.issue .crcRdb Block.readBytes)

/-- `remaining`, a signed number (R221). -/
def remainingBytes (cfg : RunConfig) (size : Word32) : Int :=
  (cfg.target : Int) - (size.toNat : Int) - (if cfg.crc = true ∧ cfg.target ≠ 0 then 3 else 0)

/-- `finalize` (R221). -/
def finalize (s : State) : Except State State :=
  match s.host.phase with
  | .segmentOpen seg _ =>
    let remaining := remainingBytes s.host.cfg seg.size
    match (if 0 < remaining then padRows remaining.toNat s else .ok s) with
    | .ok t => if s.host.cfg.crc then appendCrc t else .ok t
    | .error e => .error e
  | .noSegment => .ok s
  | .closed => .ok s

/-- Both sinks released; the run is over (R215). -/
def endRun (s : State) : State :=
  s.withHost { s.host with status := .finished, phase := .closed, textOpen := false }

/-- `on_eof` (R215, R216, R230). -/
def onEof (s : State) : Except State State :=
  match s.host.phase with
  | .closed => .ok s
  | .noSegment => .ok (endRun s)
  | .segmentOpen _ _ =>
    match (if s.host.segCount = 1 then finalize s else .ok s) with
    | .ok t => .ok (endRun (closeSegment t))
    | .error e => .error e

end Sys2Proof.Machine
end

