-- ==== Sys2Proof/Machine/Records.lean ====
section
/-! DEFINITION. The meanings of the six record forms: the line is given to REC.DEC, then the host acts on the record
(42_host_sequencer.md R202; 41_record_decoder.md R166 to R171). -/

namespace Sys2Proof.Machine

/-- One turn of the driver loop (R202): the line under way is given to REC.DEC, which performs `op`; a record is acted
on, an error aborts the run (R223), a refusal stops it (log 12). -/
def driveLine (op : Block → Block × Response) (act : HexRecord → State → Except State State) (s : State) : State :=
  let s1 := s.issue (.recDec s.host.line) op
  match (op s.block).2 with
  | .record r => settle (act r s1)
  | .raised e => abort e s1
  | .ok => hostRefuse .blockRefused s1
  | .crcValue _ => hostRefuse .blockRefused s1
  | .crcBytes _ => hostRefuse .blockRefused s1
  | .status _ _ _ => hostRefuse .blockRefused s1
  | .refused => hostRefuse .blockRefused s1

/-- REC.DATA (41 R166). -/
def execRecData (r : RecordFields) (s : State) : Host.Outcome State Fault Refusal :=
  .next (driveLine (Block.decodeRecord .data r) onData s)

/-- REC.EOF (41 R167): payload and address are ignored. -/
def execRecEof (r : RecordFields) (s : State) : Host.Outcome State Fault Refusal :=
  .next (driveLine (Block.decodeRecord .endOfFile r) (fun _ => onEof) s)

/-- REC.ESA (41 R168). -/
def execRecEsa (r : RecordFields) (s : State) : Host.Outcome State Fault Refusal :=
  .next (driveLine (Block.decodeRecord .extendedSegmentAddress r) onEsa s)

/-- REC.SSA (41 R169). -/
def execRecSsa (r : RecordFields) (s : State) : Host.Outcome State Fault Refusal :=
  .next (driveLine (Block.decodeRecord .startSegmentAddress r) onStartAddress s)

/-- REC.ELA (41 R170). -/
def execRecEla (r : RecordFields) (s : State) : Host.Outcome State Fault Refusal :=
  .next (driveLine (Block.decodeRecord .extendedLinearAddress r) onEla s)

/-- REC.SLA (41 R171). -/
def execRecSla (r : RecordFields) (s : State) : Host.Outcome State Fault Refusal :=
  .next (driveLine (Block.decodeRecord .startLinearAddress r) onStartAddress s)

end Sys2Proof.Machine
end

