-- ==== Sys2Proof/Machine/Dispatch.lean ====
section
/-! DEFINITION. The dispatcher: one arm per constructor. -/

namespace Sys2Proof.Machine

def exec (i : Instr) (s : State) : Host.Outcome State Fault Refusal :=
  match i with
  | .recData r => Sys2Proof.Machine.execRecData r s
  | .recEof r => Sys2Proof.Machine.execRecEof r s
  | .recEsa r => Sys2Proof.Machine.execRecEsa r s
  | .recSsa r => Sys2Proof.Machine.execRecSsa r s
  | .recEla r => Sys2Proof.Machine.execRecEla r s
  | .recSla r => Sys2Proof.Machine.execRecSla r s
  | .blkReset => Sys2Proof.Machine.execBlkReset s
  | .blkStat => Sys2Proof.Machine.execBlkStat s
  | .crcClr => Sys2Proof.Machine.execCrcClr s
  | .crcSeed v => Sys2Proof.Machine.execCrcSeed v s
  | .crcFold buf => Sys2Proof.Machine.execCrcFold buf s
  | .crcRd => Sys2Proof.Machine.execCrcRd s
  | .crcRdb => Sys2Proof.Machine.execCrcRdb s
  | .recDec line => Sys2Proof.Machine.execRecDec line s

end Sys2Proof.Machine
end

