-- ==== Sys2Proof/Machine/Driver.lean ====
section
/-! DEFINITION. What surrounds the instructions: stripping, taking the next piece of work, starting a run, a line that
spells no record, the end of the input (42_host_sequencer.md R202, R203, R224, R229). -/

namespace Sys2Proof.Machine

/-- The characters stripping removes (R203). -/
def isBlank (c : Byte) : Bool :=
  c == 0x20 || c == 0x09 || c == 0x0A || c == 0x0B || c == 0x0C || c == 0x0D

/-- `strip` (R203): both ends, nothing inside. -/
def strip (line : Line) : Line := ((line.dropWhile isBlank).reverse.dropWhile isBlank).reverse

/-- The host at the start of a run, with this run's files still to be written (R202). -/
def HostState.fresh (cfg : RunConfig) (input : List Line) : HostState :=
  { cfg := cfg, status := .running, phase := .noSegment, segCount := 0, line := [], input := input,
    textOpen := false, output := { binaries := [], text := [] } }

/-- `run` up to its loop (R202, 70 R292): a missing file is InputNotFound, reported to the caller with nothing touched,
neither the block nor the host (R224, R292 (1)); otherwise BLK.RESET and NoSegment. -/
def startRun (l : Launch) (s : State) : State :=
  match l.file with
  | none => { s with report := some (.inputNotFound l.cfg.path) }
  | some lines => (s.issue .blkReset Block.clearAll).withHost (HostState.fresh l.cfg lines)

/-- The input ended without an EndOfFile record (R229). A block that is Faulted there stops the run as it does at a
line (log 12). -/
def endOfInput (s : State) : State :=
  match s.host.cfg.missingEof with
  | .refuse => hostRefuse .missingEndOfFile s
  | .finalize => if s.block.faulted then hostRefuse .blockRefused s else settle (onEof s)

/-- Bytes that spell no instruction: a packet is refused (30_encoding.md R107), a line is given to REC.DEC all the same,
which raises (R202, R203). -/
def undecodable : Encoded → State → State
  | .packet bytes, s => s.refusePacket bytes
  | .line _, s => driveLine (Block.decodeLine s.host.line) (fun _ => .ok) s

/-- The next piece of work, and the state with it taken and the last step's traffic and report gone: an operation at the port
first, then a requested run, then the running file (log 6). Lines after the EndOfFile record are not read (R229). -/
def fetch (s : State) : Work × State :=
  let s0 := { s with traffic := [], report := none }
  match s.port with
  | p :: rest => (.encoded (.packet p), { s0 with port := rest })
  | [] =>
    match s.launch with
    | some l => (.launch l, { s0 with launch := none })
    | none =>
      if s.host.status = .running then
        match s.host.input with
        | l :: rest => (.encoded (.line (strip l)), s0.withHost { s.host with line := strip l, input := rest })
        | [] => (.endOfInput, s0)
      else (.idle, s0)

/-- The host as it stands when a run is on, else at the start of one. -/
def HostState.ready (h : HostState) : HostState :=
  if h.status = .running then h else HostState.fresh h.cfg []

/-- `s` with encoded words where the next step fetches them (log 4). -/
def placeEncoded : Encoded → State → State
  | .packet bytes, s => { s with port := bytes :: s.port }
  | .line chars, s =>
    { s with
      port := []
      launch := none
      host := { s.host.ready with input := chars :: s.host.ready.input } }

end Sys2Proof.Machine
end

