-- ==== Sys2Proof/Machine/Step.lean ====
section
/-! DEFINITION. One step, and placing an instruction where the next step takes it. -/

namespace Sys2Proof.Machine

/-- One step: the next piece of work is taken; encoded words are decoded and executed; words that spell nothing, a
requested run, the end of the input and idleness have their own effects (60_exceptions.md R268 for the last). -/
def step (s : State) : Host.Outcome State Fault Refusal :=
  match fetch s with
  | (.encoded e, t) =>
    match decode e with
    | .ok i => exec i t
    | .error _ => .next (undecodable e t)
  | (.launch l, t) => .next (startRun l t)
  | (.endOfInput, t) => .next (endOfInput t)
  | (.idle, t) => .next t

/-- `s` with the table word stored where the next step fetches (log 4, log 19). -/
def State.withFetchWord (s : State) (nbits w : Nat) : State := placeEncoded (tableWord nbits w) s

end Sys2Proof.Machine
end

