-- ==== Sys2Proof/Safety.lean ====
section
/-! DEFINITION. What holds of every state a run reaches (10_state.md R43; 42_host_sequencer.md R205, R218, R220, R223,
R231), and what a safe run is (70_reset_and_hazards.md R304). -/

namespace Sys2Proof.Machine

/-- The invariants of 10_state.md R43 (c) and (d) and the "otherwise 0" of R36; R43 (a) is the register's width. -/
def Block.Inv (b : Block) : Prop :=
  b.err.kind ≠ .inputNotFound ∧
  (b.err.kind ≠ .checksumMismatch → b.err.expected = 0 ∧ b.err.actual = 0) ∧
  (b.err.kind = .checksumMismatch → b.err.expected ≠ b.err.actual)

/-- What the phase says about the rest of the host: in NoSegment nothing was opened or written; an open segment is
counted, agrees with its binary sink in base, offset and number of bytes, comes after the closed files, and expects an
offset a record can reach (R231); a closed run has its text handle closed. -/
def HostState.PhaseInv (h : HostState) : Prop :=
  match h.phase with
  | .noSegment => h.segCount = 0 ∧ h.textOpen = false ∧ h.output = { binaries := [], text := [] }
  | .segmentOpen seg bin =>
    h.segCount = h.output.binaries.length + 1 ∧ h.textOpen = true ∧
    bin.baseAddress = seg.baseAddress ∧ bin.startOffset = seg.startOffset ∧
    bin.bytes.length = seg.size.toNat ∧ seg.runningOffset.toNat ≤ 0xFFFF + 0xFF
  | .closed => h.textOpen = false

/-- A run that is on is not closed (R205); one that is not has no sink open (R223). -/
def HostState.Inv (h : HostState) : Prop :=
  (h.status = .running → h.phase ≠ .closed) ∧
  (h.status ≠ .running → h.textOpen = false ∧ ∀ seg bin, h.phase ≠ .segmentOpen seg bin) ∧
  h.PhaseInv

/-- The invariant of the machine. -/
def State.Inv (s : State) : Prop := s.block.Inv ∧ s.host.Inv

/-- The byte an item of the text file stands for, if it is a byte token. -/
def byteOfItem : TextItem → Option Byte
  | .byte b => some b
  | .arrayOpen _ _ => none
  | .indent => none
  | .lineBreak => none
  | .trailer _ _ => none

/-- The bytes the text file lists. -/
def textBytes (items : List TextItem) : List Byte := items.filterMap byteOfItem

/-- The bytes of the binary files, the open one last. -/
def binaryBytes (h : HostState) : List Byte := h.allBinaries.flatMap BinFile.bytes

/-- "Write the same bytes to the text file" (R220), of every run whose outputs are claimed. -/
def HostState.SinksAgree (h : HostState) : Prop :=
  (∀ why, h.status ≠ .stopped why) → textBytes h.output.text = binaryBytes h

/-- The last run that began has valid outputs (R304 (a)): it ended with an EndOfFile record and the block is not Faulted. -/
def State.SafeEnd (s : State) : Prop := s.host.status = .finished ∧ s.block.faulted = false

end Sys2Proof.Machine
end

