-- ==== Sys2Proof/Certificates/Slice0/Obligations.lean ====
section
/-! DEFINITION. The statements about the model, each with the rule of spec/ it formalises, and the few words they are
written in (namespace Sys2Proof.Claims), which follow the spec's own text and not the model's definitions where the two
are spelled differently. -/

namespace Sys2Proof.Claims

open Sys2Proof.Machine

/-! ### Words of the statements -/

/-- Instruction `i` was issued and answered with `r`. -/
abbrev said (i : Instr) (r : Response) : Exchange := { request := .operation i, response := r }

/-- The word of pair `k` (40_crc24_ops.md R131): `lo + 256 * hi`, the missing last byte 0x00. -/
def loopWord (buf : Buffer) (k : Nat) : Word16 :=
  BitVec.ofNat 16
    ((buf.getD (2 * k) 0).toNat + 256 * (if 2 * k + 1 < buf.length then (buf.getD (2 * k + 1) 0).toNat else 0))

/-- The loop of R131: `for k in 0..p-1` with `p = (n + 1) div 2`. -/
def foldLoop (seed : Word24) (buf : Buffer) : Word24 :=
  (List.range ((buf.length + 1) / 2)).foldl (fun c k => crc24Step c (loopWord buf k)) seed

/-- The document's step read literally, on a value without a width (40_crc24_ops.md R132). -/
def literalStep (c : Nat) (w : Word16) : Nat :=
  if ((c <<< 1) ^^^ w.toNat).testBit 24 then ((c <<< 1) ^^^ w.toNat) ^^^ 0x80001B else (c <<< 1) ^^^ w.toNat

/-- The document's loop over the pairs of a buffer with the literal step, before its final mask. -/
def literalFold (seed : Nat) (buf : Buffer) : Nat :=
  (List.range ((buf.length + 1) / 2)).foldl (fun c k => literalStep c (loopWord buf k)) seed

/-- Two buffers XORed byte by byte (R135 (e)). -/
def xorBytes (a b : Buffer) : Buffer := List.zipWith (fun x y => x ^^^ y) a b

/-- No hexadecimal digit stands at offset `o`. -/
def badAt (cs : Line) (o : Nat) : Prop := (lineChar cs o).bind hexVal = none

/-- 60_exceptions.md R251, its six conditions in order. -/
def Malformed (cs : Line) : Prop :=
  cs.length < 9 ∨
  lineChar cs 0 ≠ some 0x3A ∨
  (∃ o, 1 ≤ o ∧ o ≤ 8 ∧ badAt cs o) ∨
  (∃ n, hex2 cs 1 = some n ∧ cs.length ≠ 11 + 2 * n.toNat) ∨
  (∃ n o, hex2 cs 1 = some n ∧ 9 ≤ o ∧ o ≤ 10 + 2 * n.toNat ∧ badAt cs o) ∨
  (∃ t, hex2 cs 7 = some t ∧ 0x05 < t)

/-- The code of a record type (30_encoding.md R99). -/
def typeCode : RecordType → Nat
  | .data => 0
  | .endOfFile => 1
  | .extendedSegmentAddress => 2
  | .startSegmentAddress => 3
  | .extendedLinearAddress => 4
  | .startLinearAddress => 5

/-- The record whose fields stand at the offsets of 30_encoding.md R91. -/
def Spells (cs : Line) (r : HexRecord) : Prop :=
  hex2 cs 1 = some r.byteCount ∧ hex4 cs 3 = some r.address ∧
  (hex2 cs 7).map BitVec.toNat = some (typeCode r.recordType) ∧
  r.payload.length = r.byteCount.toNat ∧
  (∀ k, k < r.byteCount.toNat → r.payload[k]? = hex2 cs (9 + 2 * k)) ∧
  hex2 cs (9 + 2 * r.byteCount.toNat) = some r.checksum

/-- The sum of all decoded bytes but the checksum, as a number (41_record_decoder.md R162, R163). -/
def otherSum (r : HexRecord) : Nat :=
  r.byteCount.toNat + r.address.toNat / 256 + r.address.toNat % 256 + typeCode r.recordType
    + (r.payload.map BitVec.toNat).sum

/-- The checksum law (R162). -/
def Valid (r : HexRecord) : Prop := (otherSum r + r.checksum.toNat) % 256 = 0

/-- The checksum byte that would make the record valid (R163). -/
def rightChecksum (r : HexRecord) : Byte := BitVec.ofNat 8 ((256 - otherSum r % 256) % 256)

/-- A run is on, nothing waits at the port or for a start, and `l` is its next line. -/
def AtLine (s : State) (l : Line) (rest : List Line) : Prop :=
  s.port = [] ∧ s.launch = none ∧ s.host.status = .running ∧ s.host.input = l :: rest

/-- Stripped characters (42_host_sequencer.md R203). -/
def Blank (c : Byte) : Prop := c ∈ ([0x20, 0x09, 0x0A, 0x0B, 0x0C, 0x0D] : List Byte)

/-- `s` after its host, having taken `hr` from REC.DEC, closed the open segment, if any, and opened one (R206, R217). -/
def afterOpen (s : State) (hr : HexRecord) (base : Word32) (off : Option Word16) : State :=
  let old : List BinFile × List TextItem × List Exchange :=
    match s.host.phase with
    | .segmentOpen seg bin =>
      ([bin], [.trailer seg.size s.block.crc], [said .crcRd (.crcValue s.block.crc)])
    | .noSegment => ([], [], [])
    | .closed => ([], [], [])
  { s with
    block := { s.block with crc := 0 }
    host :=
      { s.host with
        phase := .segmentOpen
          { baseAddress := base, size := 0, runningOffset := BitVec.ofNat 32 (off.getD 0).toNat, startOffset := off }
          { baseAddress := base, startOffset := off, bytes := [] }
        segCount := s.host.segCount + 1
        textOpen := true
        output :=
          { binaries := s.host.output.binaries ++ old.1
            text := s.host.output.text ++ old.2.1 ++ [.arrayOpen base off] } }
    traffic := s.traffic ++ [said (.recDec s.host.line) (.record hr)] ++ old.2.2 ++ [said .crcClr .ok] }

/-- `s` after its run was aborted by `e`, answered by the exchange `x` (R223). -/
def afterAbort (s : State) (e : ErrorValue) (x : Exchange) : State :=
  { s with
    host :=
      { s.host with
        status := .aborted e
        phase := .closed
        textOpen := false
        output := { s.host.output with
          binaries := s.host.output.binaries ++
            (match s.host.phase with
              | .segmentOpen _ bin => [bin]
              | .noSegment => []
              | .closed => []) } }
    traffic := s.traffic ++ [x]
    report := some e }

/-- `s` after its host gave the run up, answered by the exchanges `xs` (R227; the outputs are a free value). -/
def afterRefuse (s : State) (why : RefuseReason) (xs : List Exchange) : State :=
  { s with
    host :=
      { s.host with
        status := .stopped why, phase := .closed, textOpen := false, output := Config.unclaimedOutput s.free }
    free := s.free + 1
    traffic := s.traffic ++ xs }

/-- The offset after a Data record (R211). -/
def nextOffset (r : RecordFields) : Word32 := BitVec.ofNat 32 (r.address.toNat + r.byteCount.toNat)

/-- The rows in which `n` pad bytes are fed (R221). -/
def padBuffers (align : Nat) (pad : Byte) (n : Nat) : List Buffer :=
  if n = 0 then []
  else if align = 0 then [List.replicate n pad]
  else
    List.replicate (n / align) (List.replicate align pad)
      ++ (if n % align = 0 then [] else [List.replicate (n % align) pad])

/-- The canonical spelling of encoded words: upper-case letters in a line. -/
def canonical : Encoded → Encoded
  | .packet bytes => .packet bytes
  | .line cs => .line (cs.map fun c => if 0x61 ≤ c ∧ c ≤ 0x66 then c - 0x20 else c)

end Sys2Proof.Claims

section

open Sys2Proof Sys2Proof.Machine Sys2Proof.Claims

/-! ### Words, decoding, and the step -/

/-- 30_encoding.md R91, R99, R106: a few words written from the encodings. The lines are `:0300300002337A1E` (41 R165),
`:00000001FF`, `:020000021000EC`, `:0400000300003800C1`, `:020000040800F2` and `:04000005000000CD2A` (41 R166 to R171). -/
def Obligations.SpelledWordsDecode : Prop :=
  decode (.packet [0xFF]) = .ok .blkReset ∧ decode (.packet [0x20]) = .ok .blkStat ∧
  decode (.packet [0x01]) = .ok .crcClr ∧ decode (.packet [0x02, 0xAB, 0xCD, 0xEF]) = .ok (.crcSeed 0xABCDEF) ∧
  decode (.packet [0x03, 0x12, 0x34]) = .ok (.crcFold [0x12, 0x34]) ∧ decode (.packet [0x04]) = .ok .crcRd ∧
  decode (.packet [0x05]) = .ok .crcRdb ∧ decode (.packet [0x10, 0x3A]) = .ok (.recDec [0x3A]) ∧
  decode (.line [0x3A, 0x30, 0x33, 0x30, 0x30, 0x33, 0x30, 0x30, 0x30, 0x30, 0x32, 0x33, 0x33, 0x37, 0x41, 0x31, 0x45])
    = .ok (.recData { byteCount := 3, address := 0x0030, payload := [0x02, 0x33, 0x7A], checksum := 0x1E }) ∧
  decode (.line [0x3A, 0x30, 0x30, 0x30, 0x30, 0x30, 0x30, 0x30, 0x31, 0x46, 0x46])
    = .ok (.recEof { byteCount := 0, address := 0, payload := [], checksum := 0xFF }) ∧
  decode (.line [0x3A, 0x30, 0x32, 0x30, 0x30, 0x30, 0x30, 0x30, 0x32, 0x31, 0x30, 0x30, 0x30, 0x45, 0x43])
    = .ok (.recEsa { byteCount := 2, address := 0, payload := [0x10, 0x00], checksum := 0xEC }) ∧
  decode (.line [0x3A, 0x30, 0x34, 0x30, 0x30, 0x30, 0x30, 0x30, 0x33, 0x30, 0x30, 0x30, 0x30, 0x33, 0x38, 0x30, 0x30,
      0x43, 0x31])
    = .ok (.recSsa { byteCount := 4, address := 0, payload := [0x00, 0x00, 0x38, 0x00], checksum := 0xC1 }) ∧
  decode (.line [0x3A, 0x30, 0x32, 0x30, 0x30, 0x30, 0x30, 0x30, 0x34, 0x30, 0x38, 0x30, 0x30, 0x46, 0x32])
    = .ok (.recEla { byteCount := 2, address := 0, payload := [0x08, 0x00], checksum := 0xF2 }) ∧
  decode (.line [0x3A, 0x30, 0x34, 0x30, 0x30, 0x30, 0x30, 0x30, 0x35, 0x30, 0x30, 0x30, 0x30, 0x30, 0x30, 0x43, 0x44,
      0x32, 0x41])
    = .ok (.recSla { byteCount := 4, address := 0, payload := [0x00, 0x00, 0x00, 0xCD], checksum := 0x2A })

/-- Every well-formed instruction, every operand value: its words decode to it. -/
def Obligations.DecodeOfEncode : Prop :=
  ∀ i : Instr, i.wellFormed = true → decode (encode i) = .ok i

/-- Words that decode give a well-formed instruction whose own words they are, up to the case of letters. -/
def Obligations.EncodeOfDecode : Prop :=
  ∀ (e : Encoded) (i : Instr), decode e = .ok i → i.wellFormed = true ∧ encode i = canonical e

/-- 30_encoding.md R93, R94, R95 as numbers: the digits of either case, the byte and the address. -/
def Obligations.HexFieldsReadMostSignificantFirst : Prop :=
  (∀ c : Byte, ∀ d : BitVec 4, hexVal c = some d ↔
    (0x30 ≤ c ∧ c ≤ 0x39 ∧ c.toNat = 0x30 + d.toNat) ∨ (0x41 ≤ c ∧ c ≤ 0x46 ∧ c.toNat + 10 = 0x41 + d.toNat) ∨
      (0x61 ≤ c ∧ c ≤ 0x66 ∧ c.toNat + 10 = 0x61 + d.toNat)) ∧
  (∀ (cs : Line) (o : Nat) (h l : BitVec 4), (lineChar cs o).bind hexVal = some h →
    (lineChar cs (o + 1)).bind hexVal = some l → ∃ b, hex2 cs o = some b ∧ b.toNat = 16 * h.toNat + l.toNat) ∧
  (∀ (cs : Line) (o : Nat) (h3 h4 h5 h6 : BitVec 4), (lineChar cs o).bind hexVal = some h3 →
    (lineChar cs (o + 1)).bind hexVal = some h4 → (lineChar cs (o + 2)).bind hexVal = some h5 →
    (lineChar cs (o + 3)).bind hexVal = some h6 →
    ∃ a, hex4 cs o = some a ∧ a.toNat = 4096 * h3.toNat + 256 * h4.toNat + 16 * h5.toNat + h6.toNat)

/-- A step takes the packet at the head of the port, or the next line of the run, stripped, and runs what it decodes to.
The port before the run is the model's order (log 6). -/
def Obligations.StepRunsTheDecodedInstruction : Prop :=
  (∀ (s : State) (p : List Byte) (rest : List (List Byte)) (i : Instr), s.port = p :: rest →
    decode (.packet p) = .ok i → step s = exec i { s with port := rest, traffic := [], report := none }) ∧
  (∀ (s : State) (l : Line) (rest : List Line) (i : Instr), AtLine s l rest →
    decode (.line (strip l)) = .ok i →
    step s = exec i { s with host := { s.host with line := strip l, input := rest }, traffic := [], report := none })

/-- Where words are placed is where the next step takes them: with any well-formed instruction placed, the next step
is that instruction, on a state that differs from `s` in what was placed only. -/
def Obligations.PlacedInstructionRunsNext : Prop :=
  ∀ (s : State) (i : Instr), i.wellFormed = true → ∃ t, step (placeEncoded (encode i) s) = exec i t ∧
    t.block = s.block ∧ t.free = s.free ∧ t.traffic = [] ∧ t.report = none ∧
    (∀ p, encode i = .packet p → t.host = s.host ∧ t.port = s.port ∧ t.launch = s.launch) ∧
    (∀ cs, encode i = .line cs → t.port = [] ∧ t.launch = none ∧ t.host.line = cs ∧ t.host.status = .running ∧
      (s.host.status = .running → t.host = { s.host with line := cs }))

/-- 30_encoding.md R107: any other operation code is refused; no state changes, `ERR` is not written. -/
def Obligations.UndefinedCodeIsRefused : Prop :=
  ∀ (s : State) (code : Byte) (operand : List Byte) (rest : List (List Byte)),
    code ∉ ([0xFF, 0x20, 0x01, 0x02, 0x03, 0x04, 0x05, 0x10] : List Byte) → s.port = (code :: operand) :: rest →
    step s = .next { s with
      port := rest, traffic := [{ request := .unknown (code :: operand), response := .refused }], report := none }

/-- 42_host_sequencer.md R202: whatever a line of the run is, the first thing that happens to it is REC.DEC of the
stripped line, answered as the block answers it; the next line is then the next. -/
def Obligations.EveryLineGoesThroughRecDec : Prop :=
  ∀ (s : State) (l : Line) (rest : List Line), AtLine s l rest → ∃ t, step s = .next t ∧
    t.traffic.head? = some (said (.recDec (strip l)) (Block.decodeLine (strip l) s.block).2) ∧
    t.host.line = strip l ∧ t.host.input = rest ∧ t.host.cfg = s.host.cfg

/-- No step stops: the spec's errors and refusals are answers, after which the block goes on. -/
def Obligations.EveryStepAnswers : Prop :=
  (∀ (i : Instr) (s : State), ∃ t, exec i s = .next t) ∧ ∀ s : State, ∃ t, step s = .next t

/-- 60_exceptions.md R268: with nothing to do the block keeps its state. -/
def Obligations.IdleKeepsTheState : Prop :=
  ∀ s : State, s.port = [] → s.launch = none → s.host.status ≠ .running → step s = .next { s with traffic := [], report := none }

/-! ### The CRC unit -/

/-- 40_crc24_ops.md R130: the one-line form and the bits, with `m = c[23]`. -/
def Obligations.FoldStepBitByBit : Prop :=
  ∀ (c : Word24) (w : Word16),
    crc24Step c w = ((c <<< 1) &&& 0xFFFFFF) ^^^ w.zeroExtend 24 ^^^ (if c.getLsbD 23 = true then 0x80001B else 0) ∧
    (crc24Step c w).getLsbD 0 = (w.getLsbD 0 ^^ c.getLsbD 23) ∧
    (crc24Step c w).getLsbD 1 = (c.getLsbD 0 ^^ w.getLsbD 1 ^^ c.getLsbD 23) ∧
    (crc24Step c w).getLsbD 2 = (c.getLsbD 1 ^^ w.getLsbD 2) ∧
    (crc24Step c w).getLsbD 3 = (c.getLsbD 2 ^^ w.getLsbD 3 ^^ c.getLsbD 23) ∧
    (crc24Step c w).getLsbD 4 = (c.getLsbD 3 ^^ w.getLsbD 4 ^^ c.getLsbD 23) ∧
    (∀ k, 5 ≤ k → k ≤ 15 → (crc24Step c w).getLsbD k = (c.getLsbD (k - 1) ^^ w.getLsbD k)) ∧
    (∀ k, 16 ≤ k → k ≤ 22 → (crc24Step c w).getLsbD k = c.getLsbD (k - 1)) ∧
    (crc24Step c w).getLsbD 23 = (c.getLsbD 22 ^^ c.getLsbD 23)

/-- 40_crc24_ops.md R132 (the spec's own derivation): the document's algorithm without a width, masked at the end, is
the fold at 24 bits. -/
def Obligations.LiteralAlgorithmAgrees : Prop :=
  ∀ (seed : Word24) (buf : Buffer), literalFold seed.toNat buf % 2 ^ 24 = (crc24 seed buf).toNat

/-- 40_crc24_ops.md R135 (a) to (d), 70_reset_and_hazards.md R296 (both derived by the spec): chunking and the odd tail. -/
def Obligations.FoldChunking : Prop :=
  (∀ s : Word24, crc24 s [] = s) ∧
  (∀ (s : Word24) (a b : Buffer), a.length % 2 = 0 → crc24 (crc24 s a) b = crc24 s (a ++ b)) ∧
  (∀ (s : Word24) (a b : Buffer), a.length % 2 = 1 → crc24 (crc24 s a) b = crc24 s (a ++ [0x00] ++ b)) ∧
  (∀ (s : Word24) (a : Buffer), a.length % 2 = 1 → crc24 s a = crc24 s (a ++ [0x00]))

/-- 40_crc24_ops.md R135 (e), (f) (derived by the spec): linearity over XOR, and zero. -/
def Obligations.FoldIsLinear : Prop :=
  (∀ (s t : Word24) (a b : Buffer), a.length = b.length →
    crc24 (s ^^^ t) (xorBytes a b) = crc24 s a ^^^ crc24 t b) ∧
  (∀ (s : Word24) (a : Buffer), crc24 s a = crc24 s (List.replicate a.length 0) ^^^ crc24 0 a) ∧
  (∀ n : Nat, crc24 0 (List.replicate n 0) = 0)

/-- 40_crc24_ops.md R135 (g), (h) (derived by the spec): no reduction below 2^23, and the step, hence the fold, loses
nothing of the accumulator. -/
def Obligations.FoldLosesNoSeed : Prop :=
  (∀ (s : Word24) (x y : Byte), s.toNat < 2 ^ 23 → crc24 s [x, y] = (2 * s) ^^^ BitVec.ofNat 24 (x.toNat + 256 * y.toNat)) ∧
  (∀ w : Word16, Function.Bijective fun c : Word24 => crc24Step c w) ∧
  (∀ buf : Buffer, Function.Bijective fun c : Word24 => crc24 c buf)

/-- 40_crc24_ops.md R136. -/
def Obligations.CrcClrSetsZero : Prop :=
  encode .crcClr = .packet [0x01] ∧
  ∀ s : State,
    (s.block.err.kind = .clear → exec .crcClr s = .next { s with
      block := { s.block with crc := 0x000000 }, traffic := s.traffic ++ [said .crcClr .ok] }) ∧
    (s.block.err.kind ≠ .clear → exec .crcClr s = .next { s with traffic := s.traffic ++ [said .crcClr .refused] })

/-- 40_crc24_ops.md R137. -/
def Obligations.CrcSeedSetsTheOperand : Prop :=
  ∀ v : Word24,
    encode (.crcSeed v) = .packet [0x02, BitVec.ofNat 8 (v.toNat / 65536), BitVec.ofNat 8 (v.toNat / 256),
      BitVec.ofNat 8 v.toNat] ∧
    ∀ s : State,
      (s.block.err.kind = .clear → exec (.crcSeed v) s = .next { s with
        block := { s.block with crc := v }, traffic := s.traffic ++ [said (.crcSeed v) .ok] }) ∧
      (s.block.err.kind ≠ .clear →
        exec (.crcSeed v) s = .next { s with traffic := s.traffic ++ [said (.crcSeed v) .refused] })

/-- 40_crc24_ops.md R138 with the loop of R131, words by 20_memory.md R65. -/
def Obligations.CrcFoldRunsTheLoop : Prop :=
  ∀ buf : Buffer,
    encode (.crcFold buf) = .packet (0x03 :: buf) ∧
    ∀ s : State,
      (s.block.err.kind = .clear → exec (.crcFold buf) s = .next { s with
        block := { s.block with crc := foldLoop s.block.crc buf }, traffic := s.traffic ++ [said (.crcFold buf) .ok] }) ∧
      (s.block.err.kind ≠ .clear →
        exec (.crcFold buf) s = .next { s with traffic := s.traffic ++ [said (.crcFold buf) .refused] })

/-- 40_crc24_ops.md R139. -/
def Obligations.CrcRdAnswersTheAccumulator : Prop :=
  encode .crcRd = .packet [0x04] ∧
  ∀ s : State,
    (s.block.err.kind = .clear →
      exec .crcRd s = .next { s with traffic := s.traffic ++ [said .crcRd (.crcValue s.block.crc)] }) ∧
    (s.block.err.kind ≠ .clear → exec .crcRd s = .next { s with traffic := s.traffic ++ [said .crcRd .refused] })

/-- 40_crc24_ops.md R140, 20_memory.md R67. -/
def Obligations.CrcRdbAnswersBigEndianBytes : Prop :=
  encode .crcRdb = .packet [0x05] ∧
  ∀ s : State,
    (s.block.err.kind = .clear → exec .crcRdb s = .next { s with
      traffic := s.traffic ++ [said .crcRdb (.crcBytes [BitVec.ofNat 8 (s.block.crc.toNat / 65536),
        BitVec.ofNat 8 (s.block.crc.toNat / 256), BitVec.ofNat 8 s.block.crc.toNat])] }) ∧
    (s.block.err.kind ≠ .clear → exec .crcRdb s = .next { s with traffic := s.traffic ++ [said .crcRdb .refused] })

/-! ### The record decode unit -/

/-- 41_record_decoder.md R161 to R163, 60_exceptions.md R251, R252, R256: REC.DEC whole. A malformed line raises
MalformedRecord; any other line spells one record, which is answered when its bytes sum to 0 modulo 256 and else raises
ChecksumMismatch with the byte that would have been right; CRC is left; a Faulted block refuses. -/
def Obligations.RecDecDecodesAndValidates : Prop :=
  ∀ (s : State) (cs : Line),
    (s.block.err.kind = .clear → Malformed cs → exec (.recDec cs) s = .next { s with
      block := { s.block with err := { kind := .malformedRecord, expected := 0, actual := 0 } },
      traffic := s.traffic ++ [said (.recDec cs) (.raised (.malformedRecord cs))] }) ∧
    (s.block.err.kind = .clear → ¬ Malformed cs → ∃ r : HexRecord, Spells cs r ∧
      (Valid r → exec (.recDec cs) s = .next { s with traffic := s.traffic ++ [said (.recDec cs) (.record r)] }) ∧
      (¬ Valid r → exec (.recDec cs) s = .next { s with
        block := { s.block with
          err := { kind := .checksumMismatch, expected := rightChecksum r, actual := r.checksum } },
        traffic := s.traffic ++
          [said (.recDec cs) (.raised (.checksumMismatch r (rightChecksum r) r.checksum))] })) ∧
    (s.block.err.kind ≠ .clear →
      exec (.recDec cs) s = .next { s with traffic := s.traffic ++ [said (.recDec cs) .refused] })

/-- 41_record_decoder.md R162, R163 of the sums the decoder computes: the record is valid exactly when the sum of all its
bytes is 0 modulo 256; the byte answered as expected is the two's complement of the sum of the others, makes the record
valid in the checksum's place, and differs from the byte found exactly when the record is not valid. -/
def Obligations.ExpectedChecksumIsTheRightOne : Prop :=
  ∀ (t : RecordType) (r : RecordFields),
    (recordSum t r = 0 ↔ Valid (r.toRecord t)) ∧
    expectedChecksum t r = rightChecksum (r.toRecord t) ∧
    recordSum t { r with checksum := expectedChecksum t r } = 0 ∧
    (recordSum t r ≠ 0 ↔ expectedChecksum t r ≠ r.checksum)

/-- 41_record_decoder.md R164: the response of REC.DEC depends on the line and on `ERR` alone. -/
def Obligations.RecDecReadsLineAndErrAlone : Prop :=
  ∀ (s t : State) (cs : Line), s.block.err = t.block.err → ∃ s' t' x, exec (.recDec cs) s = .next s' ∧
    exec (.recDec cs) t = .next t' ∧ s'.traffic = s.traffic ++ [x] ∧ t'.traffic = t.traffic ++ [x] ∧
    s'.block.crc = s.block.crc ∧ t'.block.crc = t.block.crc ∧ s'.block.err = t'.block.err

/-! ### The block as a whole -/

/-- 70_reset_and_hazards.md R290: power-on and BLK.RESET leave the same state of the block, every piece of it. -/
def Obligations.PowerOnAndResetAgree : Prop :=
  State.reset.block.crc = 0x000000 ∧ State.reset.block.err.kind = .clear ∧ State.reset.block.err.expected = 0 ∧
  State.reset.block.err.actual = 0 ∧
  ∀ s : State, ∃ t, exec .blkReset s = .next t ∧ t.block = State.reset.block

/-- 41_record_decoder.md R174 and 70_reset_and_hazards.md R291: never refused, one answer, nothing of the host touched. -/
def Obligations.BlkResetClearsTheBlockOnly : Prop :=
  encode .blkReset = .packet [0xFF] ∧
  ∀ s : State, exec .blkReset s = .next { s with
    block := { crc := 0x000000, err := { kind := .clear, expected := 0, actual := 0 } },
    traffic := s.traffic ++ [said .blkReset .ok] }

/-- 41_record_decoder.md R173, codes by 10_state.md R36: answered in every state. -/
def Obligations.BlkStatReadsTheLatch : Prop :=
  encode .blkStat = .packet [0x20] ∧
  ∀ s : State, ∃ k : BitVec 2,
    exec .blkStat s = .next { s with
      traffic := s.traffic ++ [said .blkStat (.status k s.block.err.expected s.block.err.actual)] } ∧
    (s.block.err.kind = .clear → k = 0) ∧ (s.block.err.kind = .malformedRecord → k = 1) ∧
    (s.block.err.kind = .checksumMismatch → k = 2) ∧ (s.block.err.kind = .inputNotFound → k = 3)

/-- 60_exceptions.md R259: what a Faulted block refuses and what it answers. -/
def Obligations.FaultedBlockRefuses : Prop :=
  ∀ s : State, s.block.err.kind ≠ .clear →
    (∀ i : Instr, i = .crcClr ∨ (∃ v, i = .crcSeed v) ∨ (∃ buf, i = .crcFold buf) ∨ i = .crcRd ∨ i = .crcRdb ∨
        (∃ cs, i = .recDec cs) →
      exec i s = .next { s with traffic := s.traffic ++ [said i .refused] }) ∧
    (∃ k, exec .blkStat s = .next { s with
      traffic := s.traffic ++ [said .blkStat (.status k s.block.err.expected s.block.err.actual)] }) ∧
    (∃ t, exec .blkReset s = .next t ∧ t.block.err.kind = .clear)

/-- 60_exceptions.md R255 over all instructions: a block that is not Faulted is Faulted afterwards only by REC.DEC, as an
operation or as the decoding of a record line. -/
def Obligations.OnlyDecodingRaises : Prop :=
  ∀ (i : Instr) (s t : State), s.block.err.kind = .clear → exec i s = .next t → t.block.err.kind ≠ .clear →
    (∃ cs, i = .recDec cs) ∨ ∃ ty r, i = Instr.ofRecord ty r

/-- 60_exceptions.md R260 and 10_state.md R43 (b) (derived by the spec) over all steps: a Faulted block stays as it is,
CRC and ERR, until BLK.RESET, issued at the port or by the start of a run. -/
def Obligations.OnlyResetLeavesFaulted : Prop :=
  ∀ s t : State, s.block.err.kind ≠ .clear → step s = .next t →
    t.block = s.block ∨ (∃ rest, s.port = [0xFF] :: rest) ∨
    (s.port = [] ∧ ∃ l lines, s.launch = some l ∧ l.file = some lines)

/-- 10_state.md R38: what the host was told is kept nowhere an instruction could read it. -/
def Obligations.TrafficIsInvisible : Prop :=
  ∀ (i : Instr) (s : State) (xs : List Exchange), ∃ t zs, exec i s = .next t ∧ t.traffic = s.traffic ++ zs ∧
    exec i { s with traffic := xs } = .next { t with traffic := xs ++ zs }

/-! ### The host: Data records -/

/-- 42_host_sequencer.md R207, R210, R211: a Data record at the expected offset is one CRC.FOLD of its payload, the same
bytes to both sinks. -/
def Obligations.DataRecordFeedsItsPayload : Prop :=
  ∀ (s : State) (r : RecordFields) (seg : Segment) (bin : BinFile), s.block.err.kind = .clear →
    Valid (r.toRecord .data) → s.host.phase = .segmentOpen seg bin → seg.runningOffset.toNat = r.address.toNat →
    seg.size.toNat + r.payload.length < 2 ^ 32 →
    exec (.recData r) s = .next { s with
      block := { s.block with crc := crc24 s.block.crc r.payload }
      host := { s.host with
        phase := .segmentOpen
          { seg with size := BitVec.ofNat 32 (seg.size.toNat + r.payload.length), runningOffset := nextOffset r }
          { bin with bytes := bin.bytes ++ r.payload }
        output := { s.host.output with
          text := s.host.output.text ++ textRow s.host.cfg.align seg.size.toNat r.payload } }
      traffic := s.traffic ++ [said (.recDec s.host.line) (.record (r.toRecord .data)), said (.crcFold r.payload) .ok] }

/-- 42_host_sequencer.md R213, first half, and R210: a gap below the threshold, or any gap with the threshold off, is
exactly that many pad bytes, one buffer of its own before the payload. -/
def Obligations.GapIsPaddedBeforeThePayload : Prop :=
  ∀ (s : State) (r : RecordFields) (seg : Segment) (bin : BinFile) (gap : Nat), s.block.err.kind = .clear →
    Valid (r.toRecord .data) → s.host.phase = .segmentOpen seg bin → 0 < gap →
    r.address.toNat = seg.runningOffset.toNat + gap → (s.host.cfg.gapmax = 0 ∨ gap < s.host.cfg.gapmax) →
    seg.size.toNat + gap + r.payload.length < 2 ^ 32 →
    exec (.recData r) s = .next { s with
      block := { s.block with
        crc := crc24 (crc24 s.block.crc (List.replicate gap s.host.cfg.pad)) r.payload }
      host := { s.host with
        phase := .segmentOpen
          { seg with size := BitVec.ofNat 32 (seg.size.toNat + gap + r.payload.length), runningOffset := nextOffset r }
          { bin with bytes := bin.bytes ++ List.replicate gap s.host.cfg.pad ++ r.payload }
        output := { s.host.output with
          text := s.host.output.text
            ++ textRow s.host.cfg.align seg.size.toNat (List.replicate gap s.host.cfg.pad ++ r.payload) } }
      traffic := s.traffic ++ [said (.recDec s.host.line) (.record (r.toRecord .data)),
        said (.crcFold (List.replicate gap s.host.cfg.pad)) .ok, said (.crcFold r.payload) .ok] }

/-- 42_host_sequencer.md R212 and R213, second half: at the threshold the segment is closed with its trailer and a second
one with the same base is opened at the record's offset, with no pad byte and a CRC that starts at 0. -/
def Obligations.GapAtTheThresholdSplits : Prop :=
  ∀ (s : State) (r : RecordFields) (seg : Segment) (bin : BinFile) (gap : Nat), s.block.err.kind = .clear →
    r.wellFormed = true → Valid (r.toRecord .data) → s.host.phase = .segmentOpen seg bin →
    r.address.toNat = seg.runningOffset.toNat + gap → s.host.cfg.gapmax ≠ 0 → s.host.cfg.gapmax ≤ gap →
    exec (.recData r) s = .next { s with
      block := { s.block with crc := crc24 0 r.payload }
      host := { s.host with
        phase := .segmentOpen
          { baseAddress := seg.baseAddress, size := BitVec.ofNat 32 r.payload.length, runningOffset := nextOffset r,
            startOffset := some r.address }
          { baseAddress := seg.baseAddress, startOffset := some r.address, bytes := r.payload }
        segCount := s.host.segCount + 1
        textOpen := true
        output :=
          { binaries := s.host.output.binaries ++ [bin]
            text := s.host.output.text
              ++ [.trailer seg.size s.block.crc, .arrayOpen seg.baseAddress (some r.address)]
              ++ textRow s.host.cfg.align 0 r.payload } }
      traffic := s.traffic ++ [said (.recDec s.host.line) (.record (r.toRecord .data)),
        said .crcRd (.crcValue s.block.crc), said .crcClr .ok, said (.crcFold r.payload) .ok] }

/-- 42_host_sequencer.md R210, R206: a Data record with no segment open opens one at the configured base, then is treated
as in that segment, whose expected offset is 0. -/
def Obligations.FirstDataRecordOpensASegment : Prop :=
  ∀ (s : State) (r : RecordFields), s.block.err.kind = .clear → Valid (r.toRecord .data) →
    s.host.phase = .noSegment → ∃ t t0,
      exec (.recData r) s = .next t ∧
      exec (.recData r) (afterOpen s (r.toRecord .data) s.host.cfg.base none) = .next t0 ∧
      t.block = t0.block ∧ t.host = t0.host ∧ t.port = t0.port ∧ t.launch = t0.launch ∧ t.free = t0.free ∧
      ∃ xs, t.traffic = s.traffic ++ [said (.recDec s.host.line) (.record (r.toRecord .data)), said .crcClr .ok] ++ xs ∧
        t0.traffic = (afterOpen s (r.toRecord .data) s.host.cfg.base none).traffic
          ++ [said (.recDec s.host.line) (.record (r.toRecord .data))] ++ xs

/-- 42_host_sequencer.md R227 with the three values of BACKWARD_RECORD_POLICY (log 9, log 17: the model's reading of what
`refuse` leaves and of the two other values). -/
def Obligations.BackwardRecordFollowsThePolicy : Prop :=
  ∀ (s : State) (r : RecordFields) (seg : Segment) (bin : BinFile), s.block.err.kind = .clear →
    Valid (r.toRecord .data) → s.host.phase = .segmentOpen seg bin → r.address.toNat < seg.runningOffset.toNat →
    (s.host.cfg.backward = .refuse → exec (.recData r) s = .next
      (afterRefuse s .backwardRecord [said (.recDec s.host.line) (.record (r.toRecord .data))])) ∧
    (s.host.cfg.backward = .fault → exec (.recData r) s = .next
      (afterAbort s (.malformedRecord s.host.line) (said (.recDec s.host.line) (.record (r.toRecord .data))))) ∧
    (s.host.cfg.backward = .append → seg.size.toNat + r.payload.length < 2 ^ 32 → exec (.recData r) s = .next { s with
      block := { s.block with crc := crc24 s.block.crc r.payload }
      host := { s.host with
        phase := .segmentOpen
          { seg with size := BitVec.ofNat 32 (seg.size.toNat + r.payload.length), runningOffset := nextOffset r }
          { bin with bytes := bin.bytes ++ r.payload }
        output := { s.host.output with
          text := s.host.output.text ++ textRow s.host.cfg.align seg.size.toNat r.payload } }
      traffic := s.traffic ++ [said (.recDec s.host.line) (.record (r.toRecord .data)),
        said (.crcFold r.payload) .ok] })

/-- 42_host_sequencer.md R231: a payload that would take the segment to 2^32 bytes makes the host give the run up (log 9,
log 11). -/
def Obligations.OversizedSegmentIsRefused : Prop :=
  ∀ (s : State) (r : RecordFields) (seg : Segment) (bin : BinFile), s.block.err.kind = .clear →
    Valid (r.toRecord .data) → s.host.phase = .segmentOpen seg bin → seg.runningOffset.toNat = r.address.toNat →
    2 ^ 32 ≤ seg.size.toNat + r.payload.length →
    exec (.recData r) s = .next
      (afterRefuse s .sizeOverflow [said (.recDec s.host.line) (.record (r.toRecord .data))])

/-- 42_host_sequencer.md R231 in finalization: pad bytes or CRC bytes that would take the segment to 2^32 bytes make the
host give the run up (log 9, log 11). -/
def Obligations.OversizedFinalizationIsRefused : Prop :=
  ∀ (s : State) (r : RecordFields) (seg : Segment) (bin : BinFile) (pads tail : Nat), s.block.err.kind = .clear →
    Valid (r.toRecord .endOfFile) → s.host.phase = .segmentOpen seg bin → s.host.segCount = 1 →
    tail = (if s.host.cfg.crc = true then 3 else 0) → pads = s.host.cfg.target - seg.size.toNat - tail →
    2 ^ 32 ≤ seg.size.toNat + pads + tail → ∃ t, exec (.recEof r) s = .next t ∧
      t.host.status = .stopped .sizeOverflow ∧ t.host.phase = .closed ∧ t.host.output = Config.unclaimedOutput s.free ∧
      t.block.err = s.block.err

/-! ### The host: the other record forms -/

/-- 42_host_sequencer.md R208, R206, 20_memory.md R68: base = value << 4, the old segment closed first. -/
def Obligations.EsaOpensASegment : Prop :=
  ∀ (s : State) (r : RecordFields) (hi lo : Byte), s.block.err.kind = .clear → s.host.phase ≠ .closed →
    r.byteCount = 2 → r.payload = [hi, lo] → Valid (r.toRecord .extendedSegmentAddress) →
    exec (.recEsa r) s = .next (afterOpen s (r.toRecord .extendedSegmentAddress)
      (BitVec.ofNat 32 ((hi.toNat * 256 + lo.toNat) * 16)) none)

/-- 42_host_sequencer.md R209, R206: base = value << ELA_SHIFT, 8 at power-on, for every shift and value whose base is a
`u32`; the next statement has the others. -/
def Obligations.ElaOpensASegment : Prop :=
  State.reset.host.cfg.elaShift = 8 ∧
  ∀ (s : State) (r : RecordFields) (hi lo : Byte), s.block.err.kind = .clear → s.host.phase ≠ .closed →
    r.byteCount = 2 → r.payload = [hi, lo] → Valid (r.toRecord .extendedLinearAddress) →
    (hi.toNat * 256 + lo.toNat) * 2 ^ s.host.cfg.elaShift < 2 ^ 32 →
    exec (.recEla r) s = .next (afterOpen s (r.toRecord .extendedLinearAddress)
      (BitVec.ofNat 32 ((hi.toNat * 256 + lo.toNat) * 2 ^ s.host.cfg.elaShift)) none)

/-- 42_host_sequencer.md R209 with a shift that takes the base beyond 32 bits: the segment is opened all the same, and its
base is a free value, which is the model's choice (log 24). -/
def Obligations.ElaBeyond32BitsOpensASegment : Prop :=
  ∀ (s : State) (r : RecordFields) (hi lo : Byte), s.block.err.kind = .clear → s.host.phase ≠ .closed →
    r.byteCount = 2 → r.payload = [hi, lo] → Valid (r.toRecord .extendedLinearAddress) →
    2 ^ 32 ≤ (hi.toNat * 256 + lo.toNat) * 2 ^ s.host.cfg.elaShift →
    exec (.recEla r) s = .next (afterOpen s (r.toRecord .extendedLinearAddress)
      (Config.oversizedBase s.host.cfg.elaShift (BitVec.ofNat 16 (hi.toNat * 256 + lo.toNat))) none)

/-- 42_host_sequencer.md R228: an address record whose byteCount is not 2 is the host's MalformedRecord; `ERR` is not set,
CRC is left, the run is aborted. -/
def Obligations.AddressRecordOfOtherSizeAborts : Prop :=
  ∀ (s : State) (r : RecordFields), s.block.err.kind = .clear → s.host.phase ≠ .closed → r.byteCount ≠ 2 →
    (Valid (r.toRecord .extendedSegmentAddress) → exec (.recEsa r) s = .next
      (afterAbort s (.malformedRecord s.host.line)
        (said (.recDec s.host.line) (.record (r.toRecord .extendedSegmentAddress))))) ∧
    (Valid (r.toRecord .extendedLinearAddress) → exec (.recEla r) s = .next
      (afterAbort s (.malformedRecord s.host.line)
        (said (.recDec s.host.line) (.record (r.toRecord .extendedLinearAddress)))))

/-- 42_host_sequencer.md R214, 41_record_decoder.md R169, R171: decoded, validated, and no host action. -/
def Obligations.StartAddressRecordsDoNothing : Prop :=
  ∀ (s : State) (r : RecordFields), s.block.err.kind = .clear →
    (Valid (r.toRecord .startSegmentAddress) → exec (.recSsa r) s = .next { s with
      traffic := s.traffic ++ [said (.recDec s.host.line) (.record (r.toRecord .startSegmentAddress))] }) ∧
    (Valid (r.toRecord .startLinearAddress) → exec (.recSla r) s = .next { s with
      traffic := s.traffic ++ [said (.recDec s.host.line) (.record (r.toRecord .startLinearAddress))] })

/-- 42_host_sequencer.md R205, Closed is terminal: a record that REC.DEC answers after the end of a run is acted on no
more. No step gives a line to the block then; that the forms do nothing but decode is the model's choice (log 14). -/
def Obligations.RecordsAfterTheEndDoNothing : Prop :=
  ∀ (ty : RecordType) (s : State) (r : RecordFields), s.block.err.kind = .clear → Valid (r.toRecord ty) →
    s.host.phase = .closed → exec (Instr.ofRecord ty r) s = .next { s with
      traffic := s.traffic ++ [said (.recDec s.host.line) (.record (r.toRecord ty))] }

/-- 42_host_sequencer.md R230: an EndOfFile record with no segment ends the run, with no output. -/
def Obligations.EofWithoutASegmentEndsTheRun : Prop :=
  ∀ (s : State) (r : RecordFields), s.block.err.kind = .clear → Valid (r.toRecord .endOfFile) →
    s.host.phase = .noSegment → exec (.recEof r) s = .next { s with
      host := { s.host with status := .finished, phase := .closed, textOpen := false }
      traffic := s.traffic ++ [said (.recDec s.host.line) (.record (r.toRecord .endOfFile))] }

/-- 42_host_sequencer.md R215, R216, R217: with more than one segment opened nothing is padded and no CRC bytes are
written; the segment is closed with its trailer and the run ends. -/
def Obligations.EofAfterSeveralSegmentsOnlyCloses : Prop :=
  ∀ (s : State) (r : RecordFields) (seg : Segment) (bin : BinFile), s.block.err.kind = .clear →
    Valid (r.toRecord .endOfFile) → s.host.phase = .segmentOpen seg bin → s.host.segCount ≠ 1 →
    exec (.recEof r) s = .next { s with
      host := { s.host with
        status := .finished
        phase := .closed
        textOpen := false
        output :=
          { binaries := s.host.output.binaries ++ [bin]
            text := s.host.output.text ++ [.trailer seg.size s.block.crc] } }
      traffic := s.traffic ++ [said (.recDec s.host.line) (.record (r.toRecord .endOfFile)),
        said .crcRd (.crcValue s.block.crc)] }

/-- 42_host_sequencer.md R221, R222, R217, 70_reset_and_hazards.md R297: with one segment opened it is padded to the target
row by row, each row folded; then, if asked for, the three CRC bytes are written and counted but not folded; then it is
closed. The subtractions are of natural numbers, so a segment at or above its target gets no pad byte. -/
def Obligations.EofFinalizesTheOnlySegment : Prop :=
  ∀ (s : State) (r : RecordFields) (seg : Segment) (bin : BinFile) (pads : Buffer) (rows : List Buffer) (c : Word24)
    (tail : List Byte), s.block.err.kind = .clear → Valid (r.toRecord .endOfFile) →
    s.host.phase = .segmentOpen seg bin → s.host.segCount = 1 →
    pads = List.replicate
      (s.host.cfg.target - seg.size.toNat - (if s.host.cfg.crc = true then 3 else 0)) s.host.cfg.pad →
    rows = padBuffers s.host.cfg.align s.host.cfg.pad pads.length → c = rows.foldl crc24 s.block.crc →
    tail = (if s.host.cfg.crc = true then
      [BitVec.ofNat 8 (c.toNat / 65536), BitVec.ofNat 8 (c.toNat / 256), BitVec.ofNat 8 c.toNat] else []) →
    seg.size.toNat + pads.length + tail.length < 2 ^ 32 →
    exec (.recEof r) s = .next { s with
      block := { s.block with crc := c }
      host := { s.host with
        status := .finished
        phase := .closed
        textOpen := false
        output :=
          { binaries := s.host.output.binaries ++ [{ bin with bytes := bin.bytes ++ pads ++ tail }]
            text := s.host.output.text ++ textRow s.host.cfg.align seg.size.toNat (pads ++ tail)
              ++ [.trailer (BitVec.ofNat 32 (seg.size.toNat + pads.length + tail.length)) c] } }
      traffic := s.traffic ++ [said (.recDec s.host.line) (.record (r.toRecord .endOfFile))]
        ++ rows.map (fun row => said (.crcFold row) .ok)
        ++ (if s.host.cfg.crc = true then [said .crcRdb (.crcBytes tail)] else [])
        ++ [said .crcRd (.crcValue c)] }

/-- 42_host_sequencer.md R222: with the trailer asked for and room for it, the file ends exactly at the target, the last
three bytes being the CRC that the block holds and the trailer prints. -/
def Obligations.FinalizedFileEndsAtTheTarget : Prop :=
  ∀ (s t : State) (r : RecordFields) (seg : Segment) (bin : BinFile), s.block.err.kind = .clear →
    Valid (r.toRecord .endOfFile) → s.host.phase = .segmentOpen seg bin → s.host.segCount = 1 →
    bin.bytes.length = seg.size.toNat → s.host.cfg.crc = true → seg.size.toNat + 3 ≤ s.host.cfg.target →
    s.host.cfg.target < 2 ^ 32 → exec (.recEof r) s = .next t → ∃ file text,
      t.host.output.binaries = s.host.output.binaries ++ [file] ∧ file.bytes.length = s.host.cfg.target ∧
      file.bytes.drop (s.host.cfg.target - 3) = [BitVec.ofNat 8 (t.block.crc.toNat / 65536),
        BitVec.ofNat 8 (t.block.crc.toNat / 256), BitVec.ofNat 8 t.block.crc.toNat] ∧
      t.host.output.text = text ++ [.trailer (BitVec.ofNat 32 s.host.cfg.target) t.block.crc] ∧
      t.host.status = .finished

/-- 42_host_sequencer.md R223, 60_exceptions.md R252, R256, R257, for all six forms: a record whose checksum is wrong
raises, writes ERR, leaves CRC, folds nothing, and aborts the run with both sinks closed and no trailer. -/
def Obligations.WrongChecksumAbortsTheRun : Prop :=
  ∀ (ty : RecordType) (s : State) (r : RecordFields), s.block.err.kind = .clear → ¬ Valid (r.toRecord ty) →
    exec (Instr.ofRecord ty r) s = .next
      (afterAbort
        { s with block := { s.block with
            err := { kind := .checksumMismatch, expected := rightChecksum (r.toRecord ty), actual := r.checksum } } }
        (.checksumMismatch (r.toRecord ty) (rightChecksum (r.toRecord ty)) r.checksum)
        (said (.recDec s.host.line)
          (.raised (.checksumMismatch (r.toRecord ty) (rightChecksum (r.toRecord ty)) r.checksum))))

/-- 60_exceptions.md R259 for a record line: the block refuses it and is left as it is; that the host then gives the run
up is the model's choice (log 12). -/
def Obligations.RecordLineIsRefusedWhenFaulted : Prop :=
  ∀ (ty : RecordType) (s : State) (r : RecordFields), s.block.err.kind ≠ .clear →
    exec (Instr.ofRecord ty r) s = .next (afterRefuse s .blockRefused [said (.recDec s.host.line) .refused])

/-- 60_exceptions.md R251, R256 and 42_host_sequencer.md R223: a malformed line of a run raises MalformedRecord with the
stripped line and aborts the run. -/
def Obligations.MalformedLineAbortsTheRun : Prop :=
  ∀ (s : State) (l : Line) (rest : List Line), AtLine s l rest → s.block.err.kind = .clear → Malformed (strip l) →
    step s = .next (afterAbort
      { s with
        block := { s.block with err := { kind := .malformedRecord, expected := 0, actual := 0 } }
        host := { s.host with line := strip l, input := rest }
        traffic := [], report := none }
      (.malformedRecord (strip l)) (said (.recDec (strip l)) (.raised (.malformedRecord (strip l)))))

/-! ### The host: the run -/

/-- 42_host_sequencer.md R203: what is removed is blank and stands at the ends, and nothing blank is left there. -/
def Obligations.StripRemovesBlanksAtBothEnds : Prop :=
  ∀ l : Line, ∃ a b, l = a ++ strip l ++ b ∧ (∀ c ∈ a, Blank c) ∧ (∀ c ∈ b, Blank c) ∧
    (∀ c, (strip l).head? = some c → ¬ Blank c) ∧ (∀ c, (strip l).getLast? = some c → ¬ Blank c)

/-- 42_host_sequencer.md R202, R224, 70_reset_and_hazards.md R292: a missing file is InputNotFound with its path, reported
to the caller, and nothing is touched, neither the block nor anything of the host; otherwise BLK.RESET, NoSegment, no
segment counted, and the file's lines to come. That a run replaces the last one's outputs is the model's choice (log 22). -/
def Obligations.RunStartsWithReset : Prop :=
  ∀ (s : State) (l : Launch), s.port = [] → s.launch = some l →
    (l.file = none → step s = .next { s with
      launch := none, traffic := [], report := some (.inputNotFound l.cfg.path) }) ∧
    (∀ lines, l.file = some lines → step s = .next
      { block := { crc := 0, err := { kind := .clear, expected := 0, actual := 0 } }
        host :=
          { cfg := l.cfg, status := .running, phase := .noSegment, segCount := 0, line := [], input := lines,
            textOpen := false, output := { binaries := [], text := [] } }
        port := []
        launch := none
        traffic := [said .blkReset .ok]
        report := none
        free := s.free })

/-- 42_host_sequencer.md R229 with the two values of MISSING_EOF_POLICY (log 9, log 12, log 17): with `refuse` the run is
given up; with `finalize` the end of the input is treated as an EndOfFile record is, or, on a Faulted block, the run is
given up as at a record line. -/
def Obligations.MissingEofFollowsThePolicy : Prop :=
  ∀ s : State, s.port = [] → s.launch = none → s.host.status = .running → s.host.input = [] →
    (s.host.cfg.missingEof = .refuse → step s = .next (afterRefuse { s with traffic := [], report := none } .missingEndOfFile [])) ∧
    (s.host.cfg.missingEof = .finalize → s.block.err.kind ≠ .clear →
      step s = .next (afterRefuse { s with traffic := [], report := none } .blockRefused [])) ∧
    (s.host.cfg.missingEof = .finalize → s.block.err.kind = .clear → ∀ r : RecordFields,
      Valid (r.toRecord .endOfFile) → ∃ t u, step s = .next t ∧
        exec (.recEof r) { s with traffic := [], report := none } = .next u ∧
        t.block = u.block ∧ t.host = u.host ∧ t.report = u.report ∧ t.free = u.free)

/-- 42_host_sequencer.md R220 by position: byte `i` of a buffer fed at position `p` of its segment is led by an indent at
the start of a row and followed by a line break at the end of one; with `align` 0 there is neither. -/
def Obligations.TextRowsFollowThePosition : Prop :=
  ∀ (align p : Nat) (buf : Buffer), textRow align p buf =
    (List.range buf.length).flatMap fun i =>
      (if 0 < align ∧ (p + i) % align = 0 then [TextItem.indent] else []) ++ [TextItem.byte (buf.getD i 0)]
        ++ (if 0 < align ∧ (p + i + 1) % align = 0 then [TextItem.lineBreak] else [])

/-! ### Invariants -/

/-- 10_state.md R43 and the host's invariant hold at power-on. -/
def Obligations.InvariantHoldsAtReset : Prop := State.reset.Inv ∧ State.reset.host.SinksAgree

/-- 10_state.md R43 (derived by the spec), 42_host_sequencer.md R205, R218, R223, R231: every step keeps the invariant of
the block and of the host. -/
def Obligations.EveryStepKeepsTheInvariant : Prop :=
  ∀ s t : State, s.Inv → step s = .next t → t.Inv

/-- 42_host_sequencer.md R220: from every state in which it holds, each step keeps the text file listing exactly the bytes
of the binary files, in order. -/
def Obligations.EveryStepKeepsTheSinksInAgreement : Prop :=
  ∀ s t : State, s.Inv → s.host.SinksAgree → step s = .next t → t.host.SinksAgree

end
end

