-- ==== Sys2Proof/Laws/Decode.lean ====
section
/-! SUPPORT. The small lemmas of the hexadecimal text, the type codes and the lengths of lines. -/

namespace Sys2Proof

theorem hexVal_hexDigit : ∀ d : BitVec 4, hexVal (hexDigit d) = some d := by decide

theorem nibbles_append : ∀ b : Byte, (b.extractLsb' 4 4 ++ b.extractLsb' 0 4 : BitVec (4 + 4)) = b := by decide +kernel

@[simp] theorem hexPair_hexByte (b : Byte) :
    hexPair (hexDigit (b.extractLsb' 4 4)) (hexDigit (b.extractLsb' 0 4)) = some b := by
  simp only [hexPair, hexVal_hexDigit]
  exact congrArg some (nibbles_append b)

@[simp] theorem length_hexByte (b : Byte) : (hexByte b).length = 2 := rfl

@[simp] theorem length_flatMap_hexByte (bs : List Byte) : (bs.flatMap hexByte).length = 2 * bs.length := by
  induction bs with
  | nil => rfl
  | cons b bs ih => simp [ih]; omega

/-- The decoder reads back the bytes the encoder spelled, whatever follows. -/
theorem hexRun_flatMap (bs : List Byte) (rest : Line) :
    hexRun bs.length (bs.flatMap hexByte ++ rest) = some bs := by
  induction bs with
  | nil => rfl
  | cons b bs ih => simp [hexByte, hexRun] at ih ⊢; simp [ih]

/-- A run that decodes has as many bytes as were asked for. -/
theorem length_of_hexRun {n : Nat} {line : Line} {bs : List Byte} (h : hexRun n line = some bs) : bs.length = n := by
  induction n generalizing line bs with
  | zero => simp [hexRun] at h; simp [← h]
  | succ n ih =>
    match line, h with
    | hi :: lo :: rest, h =>
      simp only [hexRun] at h
      split at h
      · next hbs => cases h; simp [ih hbs]
      · cases h
    | [_], h => simp [hexRun] at h
    | [], h => simp [hexRun] at h

@[simp] theorem RecordType.ofCode_code (t : RecordType) : RecordType.ofCode t.code = some t := by
  cases t <;> decide

@[simp] theorem length_encodeRecord (t : RecordType) (r : RecordFields) :
    (encodeRecord t r).length = 11 + 2 * r.payload.length := by
  simp [encodeRecord]; omega

end Sys2Proof
end

