-- ==== Sys2Proof/Laws/State.lean ====
section
/-! SUPPORT. What each update of the state does to each field. -/

namespace Sys2Proof.Machine

variable (s : State) (i : Instr) (op : Block → Block × Response) (h : HostState) (e : ErrorValue) (why : RefuseReason)
  (packet : List Byte)

@[simp] theorem State.issue_block : (s.issue i op).block = (op s.block).1 := rfl
@[simp] theorem State.issue_host : (s.issue i op).host = s.host := rfl
@[simp] theorem State.issue_port : (s.issue i op).port = s.port := rfl
@[simp] theorem State.issue_launch : (s.issue i op).launch = s.launch := rfl
@[simp] theorem State.issue_free : (s.issue i op).free = s.free := rfl
@[simp] theorem State.issue_report : (s.issue i op).report = s.report := rfl
@[simp] theorem State.issue_traffic :
    (s.issue i op).traffic = s.traffic ++ [{ request := .operation i, response := (op s.block).2 }] := rfl

@[simp] theorem State.withHost_block : (s.withHost h).block = s.block := rfl
@[simp] theorem State.withHost_host : (s.withHost h).host = h := rfl
@[simp] theorem State.withHost_port : (s.withHost h).port = s.port := rfl
@[simp] theorem State.withHost_launch : (s.withHost h).launch = s.launch := rfl
@[simp] theorem State.withHost_free : (s.withHost h).free = s.free := rfl
@[simp] theorem State.withHost_report : (s.withHost h).report = s.report := rfl
@[simp] theorem State.withHost_traffic : (s.withHost h).traffic = s.traffic := rfl

@[simp] theorem State.refusePacket_block : (s.refusePacket packet).block = s.block := rfl
@[simp] theorem State.refusePacket_host : (s.refusePacket packet).host = s.host := rfl

@[simp] theorem abort_block : (abort e s).block = s.block := rfl
@[simp] theorem abort_port : (abort e s).port = s.port := rfl
@[simp] theorem abort_launch : (abort e s).launch = s.launch := rfl
@[simp] theorem abort_traffic : (abort e s).traffic = s.traffic := rfl
@[simp] theorem abort_free : (abort e s).free = s.free := rfl
@[simp] theorem abort_report : (abort e s).report = some e := rfl
@[simp] theorem abort_status : (abort e s).host.status = .aborted e := rfl
@[simp] theorem abort_phase : (abort e s).host.phase = .closed := rfl
@[simp] theorem abort_textOpen : (abort e s).host.textOpen = false := rfl
@[simp] theorem abort_binaries : (abort e s).host.output.binaries = s.host.allBinaries := rfl
@[simp] theorem abort_text : (abort e s).host.output.text = s.host.output.text := rfl

@[simp] theorem hostRefuse_block : (hostRefuse why s).block = s.block := rfl
@[simp] theorem hostRefuse_port : (hostRefuse why s).port = s.port := rfl
@[simp] theorem hostRefuse_launch : (hostRefuse why s).launch = s.launch := rfl
@[simp] theorem hostRefuse_traffic : (hostRefuse why s).traffic = s.traffic := rfl
@[simp] theorem hostRefuse_free : (hostRefuse why s).free = s.free + 1 := rfl
@[simp] theorem hostRefuse_report : (hostRefuse why s).report = s.report := rfl
@[simp] theorem hostRefuse_status : (hostRefuse why s).host.status = .stopped why := rfl
@[simp] theorem hostRefuse_phase : (hostRefuse why s).host.phase = .closed := rfl
@[simp] theorem hostRefuse_textOpen : (hostRefuse why s).host.textOpen = false := rfl

@[simp] theorem settle_ok (t : State) : settle (.ok t) = t := rfl
@[simp] theorem settle_error (t : State) : settle (.error t) = t := rfl

end Sys2Proof.Machine
end

