-- ==== Sys2Proof/Laws/Ops.lean ====
section
/-! SUPPORT. One lemma per shared operation that says what it can do. -/

namespace Sys2Proof.Machine

/-! ### The guard, raising, and the operations of the block -/

theorem Block.guarded_of_faulted (op : Block → Block × Response) {b : Block} (h : b.faulted = true) :
    Block.guarded op b = (b, .refused) := by
  simp [Block.guarded, h]

theorem Block.guarded_of_clear (op : Block → Block × Response) {b : Block} (h : b.faulted = false) :
    Block.guarded op b = op b := by
  simp [Block.guarded, h]

/-- The latch is set by a raise and by nothing else, so a block whose kind is clear is not Faulted. -/
theorem Block.faulted_eq_false_iff (b : Block) : b.faulted = false ↔ b.err.kind = .clear := by
  cases h : b.err.kind <;> simp [Block.faulted, ErrKind.code, h]

@[simp] theorem Block.raise_crc (e : ErrorValue) (b : Block) : (b.raise e).1.crc = b.crc := rfl
@[simp] theorem Block.raise_err (e : ErrorValue) (b : Block) : (b.raise e).1.err = ErrReg.ofError e := rfl
@[simp] theorem Block.raise_response (e : ErrorValue) (b : Block) : (b.raise e).2 = .raised e := rfl

/-- Stage 5: either the record comes back and nothing changes, or ChecksumMismatch is raised. -/
theorem Block.checkRecord_cases (t : RecordType) (r : RecordFields) (b : Block) :
    (recordSum t r = 0 ∧ b.checkRecord t r = (b, .record (r.toRecord t))) ∨
    (recordSum t r ≠ 0 ∧ b.checkRecord t r =
      b.raise (.checksumMismatch (r.toRecord t) (expectedChecksum t r) r.checksum)) := by
  by_cases h : recordSum t r = 0
  · exact .inl ⟨h, by simp [Block.checkRecord, h]⟩
  · exact .inr ⟨h, by rw [Block.checkRecord, if_neg h]⟩

/-- REC.DEC on a line that parses is REC.DEC on its record form. -/
theorem Block.decodeLineWith_of_parse {p : LineParams} {line : Line} {t : RecordType} {r : RecordFields}
    (h : parseRecord p line = .ok (t, r)) (b : Block) : b.decodeLineWith p line = b.decodeRecord t r := by
  simp [Block.decodeLineWith, Block.decodeRecord, Block.guarded, h]

/-! ### The base of a segment -/

/-- A base that fits 32 bits is the shifted value. -/
theorem segmentBase_of_lt {shift : Nat} {v : Word16} (h : v.toNat * 2 ^ shift < 2 ^ 32) :
    segmentBase shift v = BitVec.ofNat 32 (v.toNat * 2 ^ shift) := if_pos h

/-- A base that does not fit is the free value. -/
theorem segmentBase_of_le {shift : Nat} {v : Word16} (h : 2 ^ 32 ≤ v.toNat * 2 ^ shift) :
    segmentBase shift v = Config.oversizedBase shift v := if_neg (Nat.not_lt.mpr h)

/-- The shift of type 0x02 always fits. -/
theorem segmentBase_four (v : Word16) : segmentBase 4 v = BitVec.ofNat 32 (v.toNat * 16) :=
  segmentBase_of_lt (by have := v.isLt; omega)

/-! ### The sinks -/

/-- `emit` on an open segment: it writes both sinks and counts the bytes, or the segment is too large. -/
theorem emit_of_open {s : State} {seg : Segment} {bin : BinFile} (h : s.host.phase = .segmentOpen seg bin)
    (buf : List Byte) :
    emit buf s =
      if seg.size.toNat + buf.length < 2 ^ 32 then
        .ok (s.withHost
          { s.host with
            phase := .segmentOpen { seg with size := seg.size + BitVec.ofNat 32 buf.length }
              { bin with bytes := bin.bytes ++ buf }
            output := { s.host.output with
              text := s.host.output.text ++ textRow s.host.cfg.align seg.size.toNat buf } })
      else .error (hostRefuse .sizeOverflow s) := by
  simp [emit, h]

/-- When `emit` goes on, the block, the inputs, the configuration, the status and the counters are as before. -/
theorem emit_frame {s t : State} {buf : List Byte} (h : emit buf s = .ok t) :
    t.block = s.block ∧ t.traffic = s.traffic ∧ t.port = s.port ∧ t.launch = s.launch ∧ t.free = s.free ∧
      t.host.cfg = s.host.cfg ∧ t.host.segCount = s.host.segCount ∧ t.host.status = s.host.status := by
  unfold emit at h
  split at h
  · split at h
    · cases h; exact ⟨rfl, rfl, rfl, rfl, rfl, rfl, rfl, rfl⟩
    · cases h
  · cases h; exact ⟨rfl, rfl, rfl, rfl, rfl, rfl, rfl, rfl⟩
  · cases h; exact ⟨rfl, rfl, rfl, rfl, rfl, rfl, rfl, rfl⟩

/-- The one way in which `emit` ends the run. -/
theorem emit_error {s t : State} {buf : List Byte} (h : emit buf s = .error t) : t = hostRefuse .sizeOverflow s := by
  unfold emit at h
  split at h
  · split at h
    · cases h
    · cases h; rfl
  · cases h
  · cases h

/-- `feed` is `emit` and then one CRC.FOLD of the same buffer. -/
theorem feed_ok_iff {s t : State} {buf : List Byte} :
    feed buf s = .ok t ↔ ∃ u, emit buf s = .ok u ∧ t = u.issue (.crcFold buf) (Block.fold buf) := by
  unfold feed
  cases h : emit buf s <;> simp [eq_comm]

/-! ### Turns of the driver loop -/

/-- A line whose REC.DEC answers a record: the host acts on it. -/
theorem driveLine_of_record {op : Block → Block × Response} {s : State} {r : HexRecord}
    (h : (op s.block).2 = .record r) (act : HexRecord → State → Except State State) :
    driveLine op act s = settle (act r (s.issue (.recDec s.host.line) op)) := by
  simp [driveLine, h]

/-- A line whose REC.DEC raises: the run is aborted. -/
theorem driveLine_of_raised {op : Block → Block × Response} {s : State} {e : ErrorValue}
    (h : (op s.block).2 = .raised e) (act : HexRecord → State → Except State State) :
    driveLine op act s = abort e (s.issue (.recDec s.host.line) op) := by
  simp [driveLine, h]

/-- A line the block refuses: the run stops. -/
theorem driveLine_of_refused {op : Block → Block × Response} {s : State}
    (h : (op s.block).2 = .refused) (act : HexRecord → State → Except State State) :
    driveLine op act s = hostRefuse .blockRefused (s.issue (.recDec s.host.line) op) := by
  simp [driveLine, h]

end Sys2Proof.Machine
end

