-- ==== Sys2Proof/Laws/PerInstr.lean ====
section
/-! SUPPORT. The family EncodedSize: how long the words of each instruction are (30_encoding.md R97, R106). -/

namespace Sys2Proof.Laws

/-- The number of characters or bytes of encoded words. -/
def encodedSize : Encoded → Nat
  | .packet bytes => bytes.length
  | .line cs => cs.length

/-- The number the spec gives: a line has `11 + 2*LL` characters (R97), a packet one code byte and its operand (R106). -/
def specSize : Instr → Nat
  | .recData r => 11 + 2 * r.byteCount.toNat
  | .recEof r => 11 + 2 * r.byteCount.toNat
  | .recEsa r => 11 + 2 * r.byteCount.toNat
  | .recSsa r => 11 + 2 * r.byteCount.toNat
  | .recEla r => 11 + 2 * r.byteCount.toNat
  | .recSla r => 11 + 2 * r.byteCount.toNat
  | .blkReset => 1
  | .blkStat => 1
  | .crcClr => 1
  | .crcSeed _ => 4
  | .crcFold buf => 1 + buf.length
  | .crcRd => 1
  | .crcRdb => 1
  | .recDec line => 1 + line.length

/-- A well-formed instruction is as long as the spec says. -/
def EncodedSize.Statement (i : Instr) : Prop := i.wellFormed = true → encodedSize (encode i) = specSize i

/-- The six record forms share one length. -/
theorem length_of_wellFormed {r : RecordFields} (h : r.wellFormed = true) (t : RecordType) :
    (encodeRecord t r).length = 11 + 2 * r.byteCount.toNat := by
  simp only [RecordFields.wellFormed, beq_iff_eq] at h
  rw [length_encodeRecord, h]

theorem EncodedSize.recData (r : RecordFields) : EncodedSize.Statement (.recData r) := fun h => length_of_wellFormed h _
theorem EncodedSize.recEof (r : RecordFields) : EncodedSize.Statement (.recEof r) := fun h => length_of_wellFormed h _
theorem EncodedSize.recEsa (r : RecordFields) : EncodedSize.Statement (.recEsa r) := fun h => length_of_wellFormed h _
theorem EncodedSize.recSsa (r : RecordFields) : EncodedSize.Statement (.recSsa r) := fun h => length_of_wellFormed h _
theorem EncodedSize.recEla (r : RecordFields) : EncodedSize.Statement (.recEla r) := fun h => length_of_wellFormed h _
theorem EncodedSize.recSla (r : RecordFields) : EncodedSize.Statement (.recSla r) := fun h => length_of_wellFormed h _
theorem EncodedSize.blkReset : EncodedSize.Statement .blkReset := fun _ => rfl
theorem EncodedSize.blkStat : EncodedSize.Statement .blkStat := fun _ => rfl
theorem EncodedSize.crcClr : EncodedSize.Statement .crcClr := fun _ => rfl
theorem EncodedSize.crcSeed (v : Word24) : EncodedSize.Statement (.crcSeed v) := fun _ => rfl
theorem EncodedSize.crcFold (buf : Buffer) : EncodedSize.Statement (.crcFold buf) := fun _ => Nat.add_comm _ _
theorem EncodedSize.crcRd : EncodedSize.Statement .crcRd := fun _ => rfl
theorem EncodedSize.crcRdb : EncodedSize.Statement .crcRdb := fun _ => rfl
theorem EncodedSize.recDec (line : Line) : EncodedSize.Statement (.recDec line) := fun _ => Nat.add_comm _ _

end Sys2Proof.Laws
end

