-- ==== Sys2Proof/Machine/Render.lean ====
section
/-! DEFINITION. How the text file and the names are spelled (42_host_sequencer.md R217 to R220, 92_eei_decisions.md D32,
D33). No step depends on it (93_implementation_defined.md Part A; log 16). -/

namespace Sys2Proof.Machine

/-- ASCII codes of characters. -/
def chars (cs : List Char) : List Byte := cs.map fun c => BitVec.ofNat 8 c.toNat

/-- Leading `0` characters dropped while more than `least` characters are left. -/
def trimZeros (least : Nat) : List Byte → List Byte
  | [] => []
  | d :: ds => if d = 0x30 ∧ least ≤ ds.length then trimZeros least ds else d :: ds

/-- The `n` low hexadecimal digits of a value, upper case, most significant first. -/
def hexDigits (n v : Nat) : List Byte :=
  (List.range n).reverse.map fun k => hexDigit (BitVec.ofNat 4 (v / 16 ^ k))

/-- `:04X` of a 32-bit value: at least four upper-case digits, zero-filled (R218). -/
def hex04 (v : Word32) : List Byte := trimZeros 4 (hexDigits 8 v.toNat)

/-- `:06X` of the CRC (R217). -/
def hex06 (c : Word24) : List Byte := hexDigits 6 c.toNat

/-- A 32-bit value in decimal (R217). -/
def decimal (v : Word32) : List Byte :=
  trimZeros 1 ((List.range 10).reverse.map fun k => BitVec.ofNat 8 (0x30 + v.toNat / 10 ^ k % 10))

/-- `Sig_0x<BASE:04X>` and, for a gap-simulated segment only, `_(<OFFSET:04X>h)` (R218, R219, D33). -/
def signature (base : Word32) (off : Option Word16) : List Byte :=
  chars ['S', 'i', 'g', '_', '0', 'x'] ++ hex04 base ++
    match off with
    | none => []
    | some o => chars ['_', '('] ++ hex04 (o.zeroExtend 32) ++ chars ['h', ')']

/-- The document's preferred name of a binary file (R218). -/
def binaryName (path : List Byte) (f : BinFile) : List Byte :=
  Config.inputBaseName path ++ chars ['_'] ++ signature f.baseAddress f.startOffset ++ chars ['.', 'b', 'i', 'n']

/-- The name of the text file (R219). -/
def textName (path : List Byte) : List Byte := Config.inputBaseName path ++ chars ['.', 'h']

/-- The trailer comment with the array's closing brace 0x7D (R217). -/
def trailerText (size : Word32) (crc : Word24) : List Byte :=
  0x7D :: chars [';', ' ', ' ', '/', '*', ' '] ++ decimal size
    ++ chars [' ', 'b', 'y', 't', 'e', 's', ' ', 'C', 'R', 'C', '(', '2', '4', ')', ' ', '=', ' ', '0', 'x']
    ++ hex06 crc ++ chars [' ', '*', '/']

/-- The characters of one item; 0x7B is the opening brace (R219, R220). -/
def spellItem : TextItem → List Byte
  | .arrayOpen base off =>
    Config.textElementType ++ signature base off ++ chars ['[', ']', ' ', '=', ' '] ++ [0x7B] ++ Config.textAfterOpen
  | .indent => Config.textIndent
  | .byte b => chars ['0', 'x'] ++ hexByte b ++ chars [',', ' ']
  | .lineBreak => Config.textNewline
  | .trailer size crc => Config.textBeforeClose ++ trailerText size crc ++ Config.textAfterTrailer

/-- The characters of the text file. -/
def renderText (items : List TextItem) : List Byte := items.flatMap spellItem

end Sys2Proof.Machine
end

