-- ==== Sys2Proof/Tests/Slice0.lean ====
section
/-! SUPPORT. Tests of the decoder, of each instruction on one step, and of the rendering, with expected values from
95_test_vectors.md and the examples of the rules; and for each statement with hypotheses a state that meets them. -/

namespace Sys2Proof.Tests

open Sys2Proof.Machine Sys2Proof.Claims

/-! ### Helpers -/

/-- The characters of a line written as a string. -/
def asciiLine (s : String) : Line := s.toList.map fun c => BitVec.ofNat 8 c.toNat

/-- The state a step or an instruction goes on in. -/
def nextOf : Host.Outcome State Fault Refusal → Option State
  | .next t => some t
  | .fault _ => none
  | .refused _ => none

/-- Reset, with another accumulator. -/
def withCrc (c : Word24) : State := { State.reset with block := { State.reset.block with crc := c } }

/-- The Faulted block of 95_test_vectors.md 2.4. -/
def faultedState : State :=
  { State.reset with
    block := { crc := 0x000401, err := { kind := .checksumMismatch, expected := 0xF2, actual := 0xF3 } } }

/-- A Faulted block whose error is MalformedRecord. -/
def malformedState : State :=
  { State.reset with block := { crc := 0x000055, err := { kind := .malformedRecord, expected := 0, actual := 0 } } }

/-- A running host of configuration `cfg` with lines `input` to come. -/
def runningState (cfg : RunConfig) (input : List Line) : State :=
  { State.reset with host := HostState.fresh cfg input }

/-- A running host whose one open segment at `base` holds `bytes`, expects `off`, and whose CRC is `c`. -/
def openState (cfg : RunConfig) (c : Word24) (base : Word32) (bytes : List Byte) (off : Word32) : State :=
  { State.reset with
    block := { State.reset.block with crc := c }
    host := { HostState.fresh cfg [] with
      phase := .segmentOpen
        { baseAddress := base, size := BitVec.ofNat 32 bytes.length, runningOffset := off, startOffset := none }
        { baseAddress := base, startOffset := none, bytes := bytes }
      segCount := 1
      textOpen := true
      output := { binaries := [], text := [.arrayOpen base none] ++ bytes.map .byte } } }

/-- A run that is over. -/
def closedState : State :=
  { State.reset with host := { HostState.initial with status := .finished, phase := .closed } }

/-- The accumulator a next state holds. -/
def crcOf (o : Host.Outcome State Fault Refusal) : Option Word24 := (nextOf o).map fun t => t.block.crc

/-- The responses a next state was given. -/
def saidOf (o : Host.Outcome State Fault Refusal) : Option (List Response) :=
  (nextOf o).map fun t => t.traffic.map Exchange.response

/-- The records of the spec's examples. -/
def dataRec : RecordFields := { byteCount := 3, address := 0x0000, payload := [0xAA, 0xBB, 0xCC], checksum := 0xCC }
def gapRec : RecordFields := { byteCount := 2, address := 0x0005, payload := [0x11, 0x22], checksum := 0xC6 }
def farRec : RecordFields := { byteCount := 4, address := 0x0100, payload := [0xCA, 0xFE, 0xF0, 0x0D], checksum := 0x36 }
def badRec : RecordFields := { byteCount := 2, address := 0x0003, payload := [0x04, 0x05], checksum := 0xF3 }
def eofRec : RecordFields := { byteCount := 0, address := 0, payload := [], checksum := 0xFF }
def esaRec : RecordFields := { byteCount := 2, address := 0, payload := [0x10, 0x00], checksum := 0xEC }
def esaLong : RecordFields := { byteCount := 3, address := 0, payload := [0x10, 0x00, 0x00], checksum := 0xEB }
def ssaRec : RecordFields := { byteCount := 4, address := 0, payload := [0x00, 0x00, 0x38, 0x00], checksum := 0xC1 }
def elaRec : RecordFields := { byteCount := 2, address := 0, payload := [0x08, 0x00], checksum := 0xF2 }
def elaShort : RecordFields := { byteCount := 0, address := 0, payload := [], checksum := 0xFC }
def slaRec : RecordFields := { byteCount := 4, address := 0, payload := [0x00, 0x00, 0x00, 0xCD], checksum := 0x2A }

/-! ### WellFormed: a payload of another length than byteCount is refused (10_state.md R38) -/

theorem test_wellFormed_refuses_data : (Instr.recData { dataRec with byteCount := 4 }).wellFormed = false := by decide
theorem test_wellFormed_refuses_eof : (Instr.recEof { eofRec with payload := [0] }).wellFormed = false := by decide
theorem test_wellFormed_refuses_esa : (Instr.recEsa { esaRec with byteCount := 1 }).wellFormed = false := by decide
theorem test_wellFormed_refuses_ssa : (Instr.recSsa { ssaRec with payload := [] }).wellFormed = false := by decide
theorem test_wellFormed_refuses_ela : (Instr.recEla { elaRec with byteCount := 3 }).wellFormed = false := by decide
theorem test_wellFormed_refuses_sla : (Instr.recSla { slaRec with byteCount := 0 }).wellFormed = false := by decide
theorem test_wellFormed_accepts : (Instr.recData dataRec).wellFormed = true := by decide

/-! ### Decoding: words written from the encodings (30_encoding.md R91, R106; 95 Part 2.3 and Part 3) -/

theorem test_decode_data :
    decode (.line (asciiLine ":0300300002337A1E"))
      = .ok (.recData { byteCount := 3, address := 0x0030, payload := [0x02, 0x33, 0x7A], checksum := 0x1E }) := by decide
theorem test_decode_eof : decode (.line (asciiLine ":00000001FF")) = .ok (.recEof eofRec) := by decide
theorem test_decode_eof_lower : decode (.line (asciiLine ":00000001ff")) = .ok (.recEof eofRec) := by decide
theorem test_decode_eof_with_payload :
    decode (.line (asciiLine ":011234017741"))
      = .ok (.recEof { byteCount := 1, address := 0x1234, payload := [0x77], checksum := 0x41 }) := by decide
theorem test_decode_esa : decode (.line (asciiLine ":020000021000EC")) = .ok (.recEsa esaRec) := by decide
theorem test_decode_ssa : decode (.line (asciiLine ":0400000300003800C1")) = .ok (.recSsa ssaRec) := by decide
theorem test_decode_ela : decode (.line (asciiLine ":020000040800F2")) = .ok (.recEla elaRec) := by decide
theorem test_decode_sla : decode (.line (asciiLine ":04000005000000CD2A")) = .ok (.recSla slaRec) := by decide
theorem test_decode_blkReset : decode (.packet [0xFF]) = .ok .blkReset := by decide
theorem test_decode_blkStat : decode (.packet [0x20]) = .ok .blkStat := by decide
theorem test_decode_crcClr : decode (.packet [0x01]) = .ok .crcClr := by decide
theorem test_decode_crcSeed : decode (.packet [0x02, 0xAB, 0xCD, 0xEF]) = .ok (.crcSeed 0xABCDEF) := by decide
theorem test_decode_crcFold :
    decode (.packet [0x03, 0x12, 0x34, 0x56, 0x78]) = .ok (.crcFold [0x12, 0x34, 0x56, 0x78]) := by decide
theorem test_decode_crcFold_empty : decode (.packet [0x03]) = .ok (.crcFold []) := by decide
theorem test_decode_crcRd : decode (.packet [0x04]) = .ok .crcRd := by decide
theorem test_decode_crcRdb : decode (.packet [0x05]) = .ok .crcRdb := by decide
theorem test_decode_recDec :
    decode (.packet (0x10 :: asciiLine ":00000001FF")) = .ok (.recDec (asciiLine ":00000001FF")) := by decide

/-! The codes R107 leaves undefined, as 95 Part 2.4 lists them. -/

theorem test_decode_undefined_00 : decode (.packet [0x00]) = .error (.undefinedCode 0x00) := by decide
theorem test_decode_undefined_06 : decode (.packet [0x06]) = .error (.undefinedCode 0x06) := by decide
theorem test_decode_undefined_11 : decode (.packet [0x11]) = .error (.undefinedCode 0x11) := by decide
theorem test_decode_undefined_21 : decode (.packet [0x21]) = .error (.undefinedCode 0x21) := by decide
theorem test_decode_undefined_fe : decode (.packet [0xFE]) = .error (.undefinedCode 0xFE) := by decide

/-! The six conditions of 60_exceptions.md R251, on the lines of 95 Part 2.3. -/

theorem test_decode_truncated : decode (.line (asciiLine ":0000000")) = .error .truncatedHeader := by decide
theorem test_decode_startCode : decode (.line (asciiLine ";00000001FF")) = .error .startCode := by decide
theorem test_decode_headerDigit : decode (.line (asciiLine ":0G000001FF")) = .error .headerDigit := by decide
theorem test_decode_short : decode (.line (asciiLine ":02000000AA54")) = .error .recordLength := by decide
theorem test_decode_long : decode (.line (asciiLine ":00000001FF0")) = .error .recordLength := by decide
theorem test_decode_bodyDigit : decode (.line (asciiLine ":00000001FG")) = .error .bodyDigit := by decide
theorem test_decode_type_06 : decode (.line (asciiLine ":00000006FA")) = .error .recordType := by decide
theorem test_decode_type_ff : decode (.line (asciiLine ":000000FF01")) = .error .recordType := by decide

/-! The table's numbering: bit 0 is the least significant bit of the first byte (log 19). -/

theorem test_tableWord_blkReset : decodeTableWord 8 0xFF = some .blkReset := by decide
theorem test_tableWord_crcSeed : decodeTableWord 8 0x02 = some (.crcSeed 0) := by decide
theorem test_tableWord_ela :
    decodeTableWord 32 0x02000004
      = some (.recEla { byteCount := 2, address := 0, payload := [0, 0], checksum := 0 }) := by decide
theorem test_tableWord_data :
    decodeTableWord 32 0x00123400
      = some (.recData { byteCount := 0, address := 0x1234, payload := [], checksum := 0 }) := by decide
theorem test_withFetchWord_op :
    saidOf (step (State.reset.withFetchWord 8 0x05)) = some [.crcBytes [0x00, 0x00, 0x00]] := by decide
theorem test_withFetchWord_record :
    (nextOf (step (State.reset.withFetchWord 32 0x00000000))).map (fun t => t.host.segCount) = some 1 := by decide

/-! ### The CRC unit (95 Parts 2.1 and 2.2) -/

theorem test_step_reduces : crc24Step 0x800000 0x0000 = 0x80001B := by decide
theorem test_step_cancels : crc24Step 0xC00000 0x0000 = 0x00001B := by decide
theorem test_step_largest : crc24Step 0x7FFFFF 0x0000 = 0xFFFFFE := by decide
theorem test_step_ones : crc24Step 0xFFFFFF 0xFFFF = 0x7F001A := by decide
theorem test_step_mixed : crc24Step 0x123456 0xABCD = 0x24C361 := by decide

theorem test_crcClr : crcOf (exec .crcClr (withCrc 0x28F8D3)) = some 0x000000 := by decide
theorem test_crcSeed : crcOf (exec (.crcSeed 0x123456) State.reset) = some 0x123456 := by decide
theorem test_crcFold_check :
    crcOf (exec (.crcFold (asciiLine "123456789")) State.reset) = some 0x022A0B := by decide
theorem test_crcFold_payload :
    crcOf (exec (.crcFold [0x21, 0x46, 0x01, 0x36, 0x01, 0x21, 0x47, 0x01, 0x36, 0x00, 0x7E, 0xFE, 0x09, 0xD2, 0x19,
      0x00]) State.reset) = some 0x28F8D3 := by decide
theorem test_crcFold_seeded :
    crc24 0xABCDEF [0x12, 0x34, 0x56, 0x78] = 0x2F27E3 ∧ crc24 0 [0x00, 0x01] = 0x000100 ∧
    crc24 0 [0x01, 0x02, 0x03] = 0x000401 ∧ crc24 1 (List.replicate 48 0) = 0x80001B := by decide +kernel
theorem test_crcRd : saidOf (exec .crcRd (withCrc 0x28F8D3)) = some [.crcValue 0x28F8D3] := by decide
theorem test_crcRdb : saidOf (exec .crcRdb (withCrc 0x7C68E8)) = some [.crcBytes [0x7C, 0x68, 0xE8]] := by decide
theorem test_crcRdb_refused : saidOf (exec .crcRdb faultedState) = some [.refused] := by decide
theorem test_crcClr_refused : crcOf (exec .crcClr faultedState) = some 0x000401 := by decide

/-! ### BLK.STAT, BLK.RESET and REC.DEC (95 Parts 2.3 and 2.4) -/

theorem test_blkStat_faulted : saidOf (exec .blkStat faultedState) = some [.status 2 0xF2 0xF3] := by decide
theorem test_blkStat_malformed : saidOf (exec .blkStat malformedState) = some [.status 1 0x00 0x00] := by decide
theorem test_blkReset :
    (nextOf (exec .blkReset faultedState)).map (fun t => t.block)
      = some { crc := 0x000000, err := { kind := .clear, expected := 0, actual := 0 } } := by decide
theorem test_recDec_wraps :
    (nextOf (exec (.recDec (asciiLine ":0200000080807E")) (withCrc 0x000055))).map (fun t => t.block)
      = some { crc := 0x000055, err := { kind := .checksumMismatch, expected := 0xFE, actual := 0x7E } } := by decide
theorem test_recDec_zero_checksum :
    saidOf (exec (.recDec (asciiLine ":0000000000")) State.reset)
      = some [.record { byteCount := 0, address := 0, recordType := .data, payload := [], checksum := 0 }] := by decide

/-! ### The record forms, one line each (95 Part 3) -/

/-- P3, the pad bytes and the payload: two buffers, so 0x04038F and not 0x0601BC (R296). -/
theorem test_recData_gap :
    crcOf (exec (.recData gapRec) (openState {} 0x017798 0x00080000 [0xAA, 0xBB, 0xCC] 3)) = some 0x04038F := by decide

/-- P4, the split: the new segment keeps the base and takes the record's offset. -/
theorem test_recData_split :
    (nextOf (exec (.recData farRec) (openState { gapmax := 0x10 } 0x01B402 0 [0xDE, 0xAD, 0xBE, 0xEF] 4))).map
        (fun t => (t.block.crc, t.host.segCount, t.host.output.binaries.map BinFile.bytes, t.host.phase))
      = some (0x01F064, 2, [[0xDE, 0xAD, 0xBE, 0xEF]],
          .segmentOpen { baseAddress := 0, size := 4, runningOffset := 0x104, startOffset := some 0x0100 }
            { baseAddress := 0, startOffset := some 0x0100, bytes := [0xCA, 0xFE, 0xF0, 0x0D] }) := by decide

/-- P3, the end: no padding, then the CRC bytes, counted and not folded. -/
theorem test_recEof_crc :
    (nextOf (exec (.recEof eofRec)
        (openState { crc := true } 0x04038F 0x00080000 [0xAA, 0xBB, 0xCC, 0xFF, 0xFF, 0x11, 0x22] 7))).map
        (fun t => (t.block.crc, t.host.output.binaries.map BinFile.bytes, t.host.output.text.getLast?, t.host.status))
      = some (0x04038F, [[0xAA, 0xBB, 0xCC, 0xFF, 0xFF, 0x11, 0x22, 0x04, 0x03, 0x8F]],
          some (.trailer 10 0x04038F), .finished) := by decide

/-- P2d with rows of 5: 16 pad bytes folded as 5, 5, 5, 1 (R301). -/
theorem test_recEof_rows :
    crcOf (exec (.recEof eofRec)
      (openState { target := 0x20, align := 5 } 0x28F8D3 0 (List.replicate 16 0) 16)) = some 0x473738 := by decide +kernel

/-- P7: base 0x1000 << 4. -/
theorem test_recEsa :
    (nextOf (exec (.recEsa esaRec) (runningState {} []))).map (fun t => t.host.phase)
      = some (.segmentOpen { baseAddress := 0x00010000, size := 0, runningOffset := 0, startOffset := none }
          { baseAddress := 0x00010000, startOffset := none, bytes := [] }) := by decide

/-- 95 Part 2.3: three payload bytes; the decoder accepts them, the host raises. -/
theorem test_recEsa_long :
    (nextOf (exec (.recEsa esaLong) (runningState {} []))).map (fun t => (t.block.err.kind, t.host.status))
      = some (.clear, .aborted (.malformedRecord [])) := by decide

/-- P3: base 0x0800 << 8. -/
theorem test_recEla :
    (nextOf (exec (.recEla elaRec) (openState {} 0x000055 0 [0x55] 1))).map
        (fun t => (t.block.crc, t.host.output.binaries, t.host.phase))
      = some (0x000000, [{ baseAddress := 0, startOffset := none, bytes := [0x55] }],
          .segmentOpen { baseAddress := 0x00080000, size := 0, runningOffset := 0, startOffset := none }
            { baseAddress := 0x00080000, startOffset := none, bytes := [] }) := by decide

/-- P7: decoded, and no host action. -/
theorem test_recSsa :
    (nextOf (exec (.recSsa ssaRec) (openState {} 0x0000AA 0 [0xAA] 1))).map (fun t => (t.block, t.host))
      = some ((openState {} 0x0000AA 0 [0xAA] 1).block, (openState {} 0x0000AA 0 [0xAA] 1).host) := by decide
theorem test_recSla :
    saidOf (exec (.recSla slaRec) State.reset) = some [.record (slaRec.toRecord .startLinearAddress)] := by decide

/-- P5: the second line aborts the run; the third is not read; no trailer. -/
theorem test_line_abort :
    (nextOf (step { openState {} 0x000401 0 [0x01, 0x02, 0x03] 3 with
        host := { (openState {} 0x000401 0 [0x01, 0x02, 0x03] 3).host with
          input := [asciiLine " :020003000405F3\r\n", asciiLine ":00000001FF"] } })).map
        (fun t => (t.block.crc, t.block.err, t.host.output.binaries.map BinFile.bytes, t.host.input.length))
      = some (0x000401, { kind := .checksumMismatch, expected := 0xF2, actual := 0xF3 }, [[0x01, 0x02, 0x03]], 1) := by
  decide

/-- P1, the text of the first row: sixteen tokens between an indent and a line break (R220). -/
theorem test_textRow_full :
    textRow 16 0 (List.replicate 16 0x21) = [.indent] ++ List.replicate 16 (.byte 0x21) ++ [.lineBreak] := by decide

/-- 70_reset_and_hazards.md R292 (1): a missing file touches neither the block nor the host. -/
theorem test_missing_file :
    (nextOf (step { faultedState with launch := some { cfg := { path := [0x66, 0x77] }, file := none } })).map
        (fun t => (t.block, t.host, t.traffic, t.report))
      = some (faultedState.block, faultedState.host, [], some (.inputNotFound [0x66, 0x77])) := by decide

/-! ### Rendering (42_host_sequencer.md R217 to R220, the names and trailers of 95 Part 3) -/

theorem test_render_signature : signature 0 none = asciiLine "Sig_0x0000" := by decide
theorem test_render_signature_wide : signature 0x00080000 none = asciiLine "Sig_0x80000" := by decide
theorem test_render_signature_offset : signature 0 (some 0x0100) = asciiLine "Sig_0x0000_(0100h)" := by decide
theorem test_render_trailer :
    trailerText 16 0x28F8D3 = 0x7D :: asciiLine ";  /* 16 bytes CRC(24) = 0x28F8D3 */" := by decide
theorem test_render_trailer_small :
    trailerText 1 0x000055 = 0x7D :: asciiLine ";  /* 1 bytes CRC(24) = 0x000055 */" := by decide
theorem test_render_byte : spellItem (.byte 0x7E) = asciiLine "0x7E, " := by decide

/-! ### Witnesses: states and operands that meet the hypotheses of the statements -/

theorem witness_DecodeOfEncode :
    (Instr.recData { byteCount := 0xFF, address := 0xFFFF, payload := List.replicate 255 0xFF, checksum := 2 }).wellFormed
      = true ∧ (Instr.recEof eofRec).wellFormed = true ∧ (Instr.crcSeed 0xFFFFFF).wellFormed = true := by decide +kernel

theorem witness_EncodeOfDecode :
    decode (.line (asciiLine ":00000001ff")) = .ok (.recEof eofRec) ∧ decode (.packet [0x04]) = .ok .crcRd := by decide

theorem witness_HexFields :
    hexVal 0x30 = some 0 ∧ hexVal 0x39 = some 9 ∧ hexVal 0x41 = some 10 ∧ hexVal 0x46 = some 15 ∧
    hexVal 0x61 = some 10 ∧ hexVal 0x66 = some 15 ∧
    (lineChar (asciiLine "1aB9") 0).bind hexVal = some 1 ∧ (lineChar (asciiLine "1aB9") 1).bind hexVal = some 10 ∧
    (lineChar (asciiLine "1aB9") 2).bind hexVal = some 11 ∧ (lineChar (asciiLine "1aB9") 3).bind hexVal = some 9 := by
  decide

/-- A run at a line: `AtLine` of the statements about lines. -/
theorem witness_AtLine :
    AtLine (runningState {} [asciiLine " :00000001FF"]) (asciiLine " :00000001FF") [] := ⟨rfl, rfl, rfl, rfl⟩

theorem witness_StepRunsTheDecodedInstruction :
    ({ State.reset with port := [[0x04]] } : State).port = [[0x04]] ∧ decode (.packet [0x04]) = .ok .crcRd ∧
    decode (.line (strip (asciiLine " :00000001FF"))) = .ok (.recEof eofRec) := by decide

theorem witness_PlacedInstructionRunsNext :
    encode .crcRd = .packet [0x04] ∧ encode (.recEof eofRec) = .line (asciiLine ":00000001FF") ∧
    Instr.crcRd.wellFormed = true ∧ (Instr.recEof eofRec).wellFormed = true ∧
    (runningState {} []).host.status = .running := by decide

theorem witness_UndefinedCodeIsRefused :
    (0x06 : Byte) ∉ ([0xFF, 0x20, 0x01, 0x02, 0x03, 0x04, 0x05, 0x10] : List Byte) ∧
    (0x00 : Byte) ∉ ([0xFF, 0x20, 0x01, 0x02, 0x03, 0x04, 0x05, 0x10] : List Byte) ∧
    ({ State.reset with port := [[0x06, 0xAA]] } : State).port = (0x06 :: [0xAA]) :: [] := by decide

theorem witness_IdleKeepsTheState :
    State.reset.port = [] ∧ State.reset.launch = none ∧ State.reset.host.status ≠ .running := by decide

theorem witness_FoldChunking :
    ([0x01, 0x02] : Buffer).length % 2 = 0 ∧ ([] : Buffer).length % 2 = 0 ∧ ([0x01] : Buffer).length % 2 = 1 := by decide

theorem witness_FoldIsLinear :
    ([0x01, 0x02, 0x03] : Buffer).length = ([0xA0, 0xB0, 0xC0] : Buffer).length := by decide

theorem witness_FoldLosesNoSeed : (0x7FFFFF : Word24).toNat < 2 ^ 23 := by decide

/-- The two cases of every statement about an operation: a block that is not Faulted, and one that is. -/
theorem witness_ClearAndFaulted :
    State.reset.block.err.kind = .clear ∧ faultedState.block.err.kind ≠ .clear ∧
    malformedState.block.err.kind ≠ .clear := by decide

/-- Boundary cases of the six conditions of R251. -/
theorem witness_Malformed :
    Malformed [] ∧ Malformed (asciiLine ":0000000") ∧ Malformed (asciiLine ";00000001FF") ∧
    Malformed (asciiLine ":G0000001FF") ∧ Malformed (asciiLine ":0000000GFF") ∧
    Malformed (asciiLine ":00000001FF0") ∧ Malformed (asciiLine ":00000001FG") ∧ Malformed (asciiLine ":00000006FA") :=
  ⟨.inl (by decide), .inl (by decide), .inr (.inl (by decide)),
    .inr (.inr (.inl ⟨1, by decide, by decide, by unfold badAt; decide⟩)),
    .inr (.inr (.inl ⟨8, by decide, by decide, by unfold badAt; decide⟩)),
    .inr (.inr (.inr (.inl ⟨0, by decide, by decide⟩))),
    .inr (.inr (.inr (.inr (.inl ⟨0, 10, by decide, by decide, by decide, by unfold badAt; decide⟩)))),
    .inr (.inr (.inr (.inr (.inr ⟨6, by decide, by decide⟩))))⟩

/-- The shortest line is not malformed. -/
theorem witness_NotMalformed : ¬ Malformed (asciiLine ":0000000000") := by
  have hn : hex2 (asciiLine ":0000000000") 1 = some 0 := by decide
  have ht : hex2 (asciiLine ":0000000000") 7 = some 0 := by decide
  have hd : ∀ o : Fin 11, 1 ≤ o.val → ((lineChar (asciiLine ":0000000000") o.val).bind hexVal).isSome = true := by decide
  have hb : ∀ o, 1 ≤ o → o ≤ 10 → ¬ badAt (asciiLine ":0000000000") o := by
    intro o h1 h2 hbad
    have := hd ⟨o, by omega⟩ h1
    simp only [badAt] at hbad
    simp [hbad] at this
  rintro (h | h | ⟨o, h1, h2, h⟩ | ⟨n, h1, h2⟩ | ⟨n, o, h1, h2, h3, h⟩ | ⟨t, h1, h2⟩)
  · exact absurd h (by decide)
  · exact h (by decide)
  · exact hb o h1 (by omega) h
  · rw [hn] at h1; cases h1; exact h2 (by decide)
  · rw [hn] at h1; cases h1; exact hb o (by omega) (by simpa using h3) h
  · rw [ht] at h1; cases h1; exact absurd h2 (by decide)

/-- Records that meet the checksum law, of every type, and one that does not. -/
theorem witness_Valid :
    Valid (dataRec.toRecord .data) ∧ Valid (gapRec.toRecord .data) ∧ Valid (farRec.toRecord .data) ∧
    Valid (eofRec.toRecord .endOfFile) ∧ Valid (esaRec.toRecord .extendedSegmentAddress) ∧
    Valid (esaLong.toRecord .extendedSegmentAddress) ∧ Valid (ssaRec.toRecord .startSegmentAddress) ∧
    Valid (elaRec.toRecord .extendedLinearAddress) ∧ Valid (elaShort.toRecord .extendedLinearAddress) ∧
    Valid (slaRec.toRecord .startLinearAddress) := by unfold Valid; decide

theorem witness_NotValid :
    ¬ Valid (badRec.toRecord .data) ∧ ¬ Valid (badRec.toRecord .endOfFile) ∧
    ¬ Valid (badRec.toRecord .extendedSegmentAddress) ∧ ¬ Valid (badRec.toRecord .startSegmentAddress) ∧
    ¬ Valid (badRec.toRecord .extendedLinearAddress) ∧ ¬ Valid (badRec.toRecord .startLinearAddress) := by
  unfold Valid; decide

/-- `expectedChecksum` on the example of 41_record_decoder.md R163's rule in 95 Part 2.3: 0xF2 for 0xF3. -/
theorem test_expectedChecksum : expectedChecksum .data badRec = 0xF2 ∧ recordSum .data dataRec = 0 := by decide

theorem witness_RecDecReadsLineAndErrAlone : State.reset.block.err = (withCrc 0x123456).block.err := by decide

theorem witness_BlkStatReadsTheLatch :
    State.reset.block.err.kind = .clear ∧ malformedState.block.err.kind = .malformedRecord ∧
    faultedState.block.err.kind = .checksumMismatch ∧
    ({ State.reset with block := { crc := 0, err := { kind := .inputNotFound, expected := 0, actual := 0 } } }
      : State).block.err.kind = .inputNotFound := by decide

theorem witness_OnlyDecodingRaises :
    State.reset.block.err.kind = .clear ∧
    (nextOf (exec (.recDec []) State.reset)).map (fun t => t.block.err.kind) = some .malformedRecord := by decide

theorem witness_OnlyResetLeavesFaulted :
    faultedState.block.err.kind ≠ .clear ∧
    (nextOf (step faultedState)).map (fun t => t.block) = some faultedState.block ∧
    crcOf (step { faultedState with port := [[0xFF]] }) = some 0 ∧
    crcOf (step { faultedState with launch := some { cfg := {}, file := some [] } }) = some 0 := by decide

/-- Open segments for the Data record statements: at the offset, before a gap, at the threshold, past the record, and
with a size at its end. -/
theorem witness_DataRecordFeedsItsPayload :
    ∃ seg bin, (openState {} 0 0 [] 0).host.phase = .segmentOpen seg bin ∧
      seg.runningOffset.toNat = dataRec.address.toNat ∧ seg.size.toNat + dataRec.payload.length < 2 ^ 32 ∧
      (openState {} 0 0 [] 0).block.err.kind = .clear := ⟨_, _, rfl, by decide⟩

theorem witness_GapIsPaddedBeforeThePayload :
    ∃ seg bin gap, (openState { gapmax := 3 } 0x017798 0 [0xAA, 0xBB, 0xCC] 3).host.phase = .segmentOpen seg bin ∧
      0 < gap ∧ gapRec.address.toNat = seg.runningOffset.toNat + gap ∧
      gap < (openState { gapmax := 3 } 0x017798 0 [0xAA, 0xBB, 0xCC] 3).host.cfg.gapmax ∧
      seg.size.toNat + gap + gapRec.payload.length < 2 ^ 32 := ⟨_, _, 2, rfl, by decide⟩

theorem witness_GapAtTheThresholdSplits :
    ∃ seg bin, (openState { gapmax := 2 } 0x017798 0 [0xAA, 0xBB, 0xCC] 3).host.phase = .segmentOpen seg bin ∧
      gapRec.wellFormed = true ∧ gapRec.address.toNat = seg.runningOffset.toNat + 2 ∧
      (openState { gapmax := 2 } 0x017798 0 [0xAA, 0xBB, 0xCC] 3).host.cfg.gapmax = 2 := ⟨_, _, rfl, by decide⟩

theorem witness_FirstDataRecordOpensASegment :
    (runningState {} []).host.phase = .noSegment ∧ (runningState {} []).block.err.kind = .clear := by decide

/-- One below the expected offset, under each policy. -/
theorem witness_BackwardRecordFollowsThePolicy :
    (∃ seg bin, (openState { backward := .append } 0 0 [0x55] 6).host.phase = .segmentOpen seg bin ∧
      gapRec.address.toNat < seg.runningOffset.toNat ∧ seg.size.toNat + gapRec.payload.length < 2 ^ 32) ∧
    (openState {} 0 0 [0x55] 6).host.cfg.backward = .refuse ∧
    (openState { backward := .fault } 0 0 [0x55] 6).host.cfg.backward = .fault ∧
    (openState { backward := .append } 0 0 [0x55] 6).host.cfg.backward = .append := ⟨⟨_, _, rfl, by decide⟩, by decide⟩

/-- A segment of 2^32 - 3 counted bytes: the three of `dataRec` are one too many for a `u32`. -/
def fullState (cfg : RunConfig) : State :=
  { State.reset with
    host := { HostState.fresh cfg [] with
      phase := .segmentOpen { baseAddress := 0, size := 0xFFFFFFFD, runningOffset := 0, startOffset := none }
        { baseAddress := 0, startOffset := none, bytes := [] }
      segCount := 1 } }

theorem witness_OversizedSegmentIsRefused :
    ∃ seg bin, (fullState {}).host.phase = .segmentOpen seg bin ∧ seg.runningOffset.toNat = dataRec.address.toNat ∧
      2 ^ 32 ≤ seg.size.toNat + dataRec.payload.length ∧ (fullState {}).block.err.kind = .clear := ⟨_, _, rfl, by decide⟩

theorem witness_OversizedFinalizationIsRefused :
    ∃ seg bin, (fullState { crc := true }).host.phase = .segmentOpen seg bin ∧
      (fullState { crc := true }).host.segCount = 1 ∧ (fullState { crc := true }).host.cfg.crc = true ∧
      0 = (fullState { crc := true }).host.cfg.target - seg.size.toNat - 3 ∧ 2 ^ 32 ≤ seg.size.toNat + 0 + 3 :=
  ⟨_, _, rfl, by decide⟩

theorem witness_EsaOpensASegment :
    esaRec.byteCount = 2 ∧ esaRec.payload = [0x10, 0x00] ∧ (runningState {} []).host.phase ≠ .closed := by decide

theorem witness_ElaOpensASegment :
    elaRec.byteCount = 2 ∧ elaRec.payload = [0x08, 0x00] ∧ (openState {} 0 0 [0x55] 1).host.phase ≠ .closed ∧
    (0x08 * 256 + 0x00) * 2 ^ (openState {} 0 0 [0x55] 1).host.cfg.elaShift < 2 ^ 32 := by decide

/-- 0x0800 is 2^11: a shift of 20 gives 2^31, which fits, and one of 21 gives 2^32, which does not. -/
theorem witness_ElaBeyond32BitsOpensASegment :
    (runningState { elaShift := 20 } []).host.phase ≠ .closed ∧
    (0x08 * 256 + 0x00) * 2 ^ (runningState { elaShift := 20 } []).host.cfg.elaShift < 2 ^ 32 ∧
    (runningState { elaShift := 21 } []).host.phase ≠ .closed ∧
    2 ^ 32 ≤ (0x08 * 256 + 0x00) * 2 ^ (runningState { elaShift := 21 } []).host.cfg.elaShift := by decide

theorem witness_AddressRecordOfOtherSizeAborts :
    esaLong.byteCount ≠ 2 ∧ elaShort.byteCount ≠ 2 ∧ (runningState {} []).host.phase ≠ .closed := by decide

theorem witness_RecordsAfterTheEndDoNothing :
    closedState.block.err.kind = .clear ∧ closedState.host.phase = .closed := by decide

theorem witness_EofAfterSeveralSegmentsOnlyCloses :
    ∃ seg bin s, s = { openState {} 0 0 [0x55] 1 with host := { (openState {} 0 0 [0x55] 1).host with segCount := 2 } } ∧
      s.host.phase = .segmentOpen seg bin ∧ s.host.segCount ≠ 1 ∧ s.block.err.kind = .clear :=
  ⟨_, _, _, rfl, rfl, by decide⟩

/-- One segment of one byte, a target of four, the CRC bytes asked for: no pad byte; a target of five: one. -/
theorem witness_EofFinalizesTheOnlySegment :
    ∃ seg bin, (openState { crc := true, target := 5 } 0 0 [0x55] 1).host.phase = .segmentOpen seg bin ∧
      (openState { crc := true, target := 5 } 0 0 [0x55] 1).host.segCount = 1 ∧
      seg.size.toNat + (5 - seg.size.toNat - 3) + 3 < 2 ^ 32 ∧ 5 - seg.size.toNat - 3 = 1 := ⟨_, _, rfl, by decide⟩

theorem witness_FinalizedFileEndsAtTheTarget :
    ∃ seg bin, (openState { crc := true, target := 4 } 0 0 [0x55] 1).host.phase = .segmentOpen seg bin ∧
      (openState { crc := true, target := 4 } 0 0 [0x55] 1).host.segCount = 1 ∧ bin.bytes.length = seg.size.toNat ∧
      (openState { crc := true, target := 4 } 0 0 [0x55] 1).host.cfg.crc = true ∧
      seg.size.toNat + 3 ≤ (openState { crc := true, target := 4 } 0 0 [0x55] 1).host.cfg.target ∧
      (nextOf (exec (.recEof eofRec) (openState { crc := true, target := 4 } 0 0 [0x55] 1))).isSome = true :=
  ⟨_, _, rfl, by decide⟩

theorem witness_RunStartsWithReset :
    ({ State.reset with launch := some { cfg := {}, file := none } } : State).launch
      = some { cfg := {}, file := none } ∧
    ({ State.reset with launch := some { cfg := {}, file := some [] } } : State).launch
      = some { cfg := {}, file := some [] } ∧ State.reset.port = [] := by decide

theorem witness_MissingEofFollowsThePolicy :
    (runningState {} []).port = [] ∧ (runningState {} []).launch = none ∧ (runningState {} []).host.status = .running ∧
    (runningState {} []).host.input = [] ∧ (runningState {} []).host.cfg.missingEof = .refuse ∧
    (runningState { missingEof := .finalize } []).host.cfg.missingEof = .finalize ∧
    ({ runningState { missingEof := .finalize } [] with block := faultedState.block } : State).block.err.kind ≠ .clear := by
  decide

/-- The invariant holds of a state in the middle of a run, and a step leaves it. -/
theorem witness_Invariant :
    (openState {} 0x000055 0 [0x55] 1).Inv ∧ (openState {} 0x000055 0 [0x55] 1).host.SinksAgree ∧
    (nextOf (step { openState {} 0x000055 0 [0x55] 1 with port := [[0x04]] })).isSome = true := by
  refine ⟨⟨?_, ?_, ?_, ?_⟩, fun _ => rfl, by decide⟩
  · exact ⟨by decide, by decide, by decide⟩
  · intro _; decide
  · intro h; exact absurd rfl h
  · exact ⟨by decide, by decide, by decide, by decide, by decide, by decide⟩

end Sys2Proof.Tests
end

/-! ## Operations, record forms and steps

What each instruction is to the block and to the host, and what a step can do, said once. -/

namespace Sys2Proof.Machine

/-! ### The two kinds of instructions -/

/-- What an operation does to the block (30_encoding.md R105); a record form is no operation of the port. -/
def operationOf : Instr → Option (Block → Block × Response)
  | .recData _ => none
  | .recEof _ => none
  | .recEsa _ => none
  | .recSsa _ => none
  | .recEla _ => none
  | .recSla _ => none
  | .blkReset => some Block.clearAll
  | .blkStat => some Block.stat
  | .crcClr => some Block.clear
  | .crcSeed v => some (Block.seed v)
  | .crcFold buf => some (Block.fold buf)
  | .crcRd => some Block.read
  | .crcRdb => some Block.readBytes
  | .recDec line => some (Block.decodeLine line)

/-- What the host does with a record of each type (42_host_sequencer.md R208 to R215). -/
def hostAction : RecordType → HexRecord → State → Except State State
  | .data => onData
  | .endOfFile => fun _ => onEof
  | .extendedSegmentAddress => onEsa
  | .startSegmentAddress => onStartAddress
  | .extendedLinearAddress => onEla
  | .startLinearAddress => onStartAddress

theorem operation_or_record (i : Instr) : (∃ op, operationOf i = some op) ∨ ∃ ty r, i = Instr.ofRecord ty r := by
  cases i with
  | recData r => exact .inr ⟨.data, r, rfl⟩
  | recEof r => exact .inr ⟨.endOfFile, r, rfl⟩
  | recEsa r => exact .inr ⟨.extendedSegmentAddress, r, rfl⟩
  | recSsa r => exact .inr ⟨.startSegmentAddress, r, rfl⟩
  | recEla r => exact .inr ⟨.extendedLinearAddress, r, rfl⟩
  | recSla r => exact .inr ⟨.startLinearAddress, r, rfl⟩
  | _ => exact .inl ⟨_, rfl⟩

/-- An operation is one exchange with the block. -/
theorem exec_of_operation {i : Instr} {op : Block → Block × Response} (h : operationOf i = some op) (s : State) :
    exec i s = .next (s.issue i op) := by
  cases i <;> cases h <;> rfl

/-- A record form is one turn of the driver loop. -/
theorem exec_ofRecord (ty : RecordType) (r : RecordFields) (s : State) :
    exec (.ofRecord ty r) s = .next (driveLine (Block.decodeRecord ty r) (hostAction ty) s) := by
  cases ty <;> rfl

theorem bareOperation_eq_ok {i j : Instr} {operand : List Byte} (h : bareOperation i operand = .ok j) : j = i := by
  cases operand <;> cases h
  rfl

/-- Packets spell operations only. -/
theorem operationOf_of_decodePacket {p : List Byte} {i : Instr} (h : decodePacket p = .ok i) :
    ∃ op, operationOf i = some op := by
  have bare {j : Instr} {operand : List Byte} {op : Block → Block × Response} (hop : operationOf j = some op)
      (hj : bareOperation j operand = .ok i) : ∃ op, operationOf i = some op :=
    ⟨op, bareOperation_eq_ok hj ▸ hop⟩
  cases p with
  | nil => cases h
  | cons code operand =>
    simp only [decodePacket] at h
    split_ifs at h
    · exact bare rfl h
    · exact bare rfl h
    · exact bare rfl h
    · split at h <;> cases h
      exact ⟨_, rfl⟩
    · cases h; exact ⟨_, rfl⟩
    · exact bare rfl h
    · exact bare rfl h
    · cases h; exact ⟨_, rfl⟩

/-- Lines spell record forms only. -/
theorem ofRecord_of_decodeLine {line : Line} {i : Instr} (h : decodeLine line = .ok i) :
    ∃ ty r, i = Instr.ofRecord ty r := by
  unfold decodeLine at h
  split at h <;> cases h
  exact ⟨_, _, rfl⟩

/-! ### What a step can do -/

/-- The state a step begins with: the record of the step before is gone (log 2, log 25). -/
def State.cleared (s : State) : State := { s with traffic := [], report := none }

/-- The state a step works on when it has taken the line `l` of the run. -/
def State.atLine (s : State) (l : Line) (rest : List Line) : State :=
  s.cleared.withHost { s.host with line := strip l, input := rest }

/-- Every way a step from `s` can go. -/
inductive StepCase (s : State) : State → Prop
  | operation {p : List Byte} {rest : List (List Byte)} {i : Instr} {op : Block → Block × Response}
      (hport : s.port = p :: rest) (hdecode : decodePacket p = .ok i) (hop : operationOf i = some op) :
      StepCase s ({ s.cleared with port := rest }.issue i op)
  | unknownPacket {p : List Byte} {rest : List (List Byte)} {e : DecodeError}
      (hport : s.port = p :: rest) (hdecode : decodePacket p = .error e) :
      StepCase s ({ s.cleared with port := rest }.refusePacket p)
  | start {l : Launch} (hport : s.port = []) (hlaunch : s.launch = some l) :
      StepCase s (startRun l { s.cleared with launch := none })
  | record {l : Line} {rest : List Line} {ty : RecordType} {r : RecordFields}
      (hport : s.port = []) (hlaunch : s.launch = none) (hrun : s.host.status = .running)
      (hinput : s.host.input = l :: rest) (hdecode : decodeLine (strip l) = .ok (.ofRecord ty r)) :
      StepCase s (driveLine (Block.decodeRecord ty r) (hostAction ty) (s.atLine l rest))
  | badLine {l : Line} {rest : List Line} {e : DecodeError}
      (hport : s.port = []) (hlaunch : s.launch = none) (hrun : s.host.status = .running)
      (hinput : s.host.input = l :: rest) (hdecode : decodeLine (strip l) = .error e) :
      StepCase s (driveLine (Block.decodeLine (strip l)) (fun _ => .ok) (s.atLine l rest))
  | endOfInput (hport : s.port = []) (hlaunch : s.launch = none) (hrun : s.host.status = .running)
      (hinput : s.host.input = []) : StepCase s (Machine.endOfInput s.cleared)
  | idle (hport : s.port = []) (hlaunch : s.launch = none) (hrun : s.host.status ≠ .running) : StepCase s s.cleared

/-! What `fetch` takes: the port first, then a requested run, then the run that is on (log 6). -/

theorem fetch_of_port {s : State} {p : List Byte} {rest : List (List Byte)} (h : s.port = p :: rest) :
    fetch s = (.encoded (.packet p), { s.cleared with port := rest }) := by
  simp [fetch, h, State.cleared]

theorem fetch_of_launch {s : State} {l : Launch} (hport : s.port = []) (h : s.launch = some l) :
    fetch s = (.launch l, { s.cleared with launch := none }) := by
  simp [fetch, hport, h, State.cleared]

theorem fetch_of_line {s : State} {l : Line} {rest : List Line} (hport : s.port = []) (hlaunch : s.launch = none)
    (hrun : s.host.status = .running) (h : s.host.input = l :: rest) :
    fetch s = (.encoded (.line (strip l)), s.atLine l rest) := by
  simp [fetch, hport, hlaunch, hrun, h, State.atLine, State.cleared]

theorem fetch_of_endOfInput {s : State} (hport : s.port = []) (hlaunch : s.launch = none)
    (hrun : s.host.status = .running) (h : s.host.input = []) : fetch s = (.endOfInput, s.cleared) := by
  simp [fetch, hport, hlaunch, hrun, h, State.cleared]

theorem fetch_of_idle {s : State} (hport : s.port = []) (hlaunch : s.launch = none)
    (hrun : s.host.status ≠ .running) : fetch s = (.idle, s.cleared) := by
  simp [fetch, hport, hlaunch, hrun, State.cleared]

theorem stepCase_of_packet {s t : State} {p : List Byte} {rest : List (List Byte)} (hport : s.port = p :: rest)
    (h : step s = .next t) : StepCase s t := by
  simp only [step, fetch_of_port hport, decode] at h
  cases hd : decodePacket p with
  | ok i =>
    obtain ⟨op, hop⟩ := operationOf_of_decodePacket hd
    simp only [hd, exec_of_operation hop] at h
    cases h
    exact .operation hport hd hop
  | error e =>
    simp only [hd, undecodable] at h
    cases h
    exact .unknownPacket hport hd

theorem stepCase_of_line {s t : State} {l : Line} {rest : List Line} (hport : s.port = []) (hlaunch : s.launch = none)
    (hrun : s.host.status = .running) (hinput : s.host.input = l :: rest) (h : step s = .next t) : StepCase s t := by
  simp only [step, fetch_of_line hport hlaunch hrun hinput, decode] at h
  cases hd : decodeLine (strip l) with
  | ok i =>
    obtain ⟨ty, r, rfl⟩ := ofRecord_of_decodeLine hd
    simp only [hd, exec_ofRecord] at h
    cases h
    exact .record hport hlaunch hrun hinput hd
  | error e =>
    simp only [hd, undecodable] at h
    cases h
    exact .badLine hport hlaunch hrun hinput hd

theorem stepCase_of_step {s t : State} (h : step s = .next t) : StepCase s t := by
  cases hport : s.port with
  | cons p rest => exact stepCase_of_packet hport h
  | nil =>
    cases hlaunch : s.launch with
    | some l =>
      simp only [step, fetch_of_launch hport hlaunch] at h
      cases h
      exact .start hport hlaunch
    | none =>
      by_cases hrun : s.host.status = .running
      · cases hinput : s.host.input with
        | cons l rest => exact stepCase_of_line hport hlaunch hrun hinput h
        | nil =>
          simp only [step, fetch_of_endOfInput hport hlaunch hrun hinput] at h
          cases h
          exact .endOfInput hport hlaunch hrun hinput
      · simp only [step, fetch_of_idle hport hlaunch hrun] at h
        cases h
        exact .idle hport hlaunch hrun

/-- The three ends of a turn of the driver loop: the host acts on the record, the run is aborted, or it is given up. -/
theorem driveLine_cases (op : Block → Block × Response) (act : HexRecord → State → Except State State) (s : State) :
    (∃ r, (op s.block).2 = .record r ∧ driveLine op act s = settle (act r (s.issue (.recDec s.host.line) op))) ∨
    (∃ e, (op s.block).2 = .raised e ∧ driveLine op act s = abort e (s.issue (.recDec s.host.line) op)) ∨
    driveLine op act s = hostRefuse .blockRefused (s.issue (.recDec s.host.line) op) := by
  cases h : (op s.block).2 with
  | record r => exact .inl ⟨r, rfl, driveLine_of_record h act⟩
  | raised e => exact .inr (.inl ⟨e, rfl, driveLine_of_raised h act⟩)
  | _ => exact .inr (.inr (by simp [driveLine, h]))

/-! ### Actions in sequence

A host action that goes on after another one is `Except.bind`. -/

theorem feed_eq_bind (buf : List Byte) (s : State) :
    feed buf s = (emit buf s).bind fun t => .ok (t.issue (.crcFold buf) (Block.fold buf)) := by
  unfold feed
  cases emit buf s <;> rfl

theorem feedPayload_eq_bind (r : HexRecord) (s : State) :
    feedPayload r s = (feed r.payload s).bind fun t => .ok (advance r t) := by
  unfold feedPayload
  cases feed r.payload s <;> rfl

theorem placeData_of_open {s : State} {seg : Segment} {bin : BinFile} (h : s.host.phase = .segmentOpen seg bin)
    (r : HexRecord) :
    placeData r s =
      if gapOf seg r < 0 then backwardRecord r s else (bridgeGap seg r s).bind (feedPayload r) := by
  simp only [placeData, h]
  cases bridgeGap seg r s <;> rfl

theorem feedRows_succ (row : List Byte) (k : Nat) (s : State) :
    feedRows row (k + 1) s = (feed row s).bind (feedRows row k) := by
  simp only [feedRows]
  cases feed row s <;> rfl

theorem padRows_eq_bind (n : Nat) (s : State) :
    padRows n s =
      if 0 < s.host.cfg.align then
        (feedRows (List.replicate s.host.cfg.align s.host.cfg.pad) (n / s.host.cfg.align) s).bind fun t =>
          if 0 < n % s.host.cfg.align then feed (List.replicate (n % s.host.cfg.align) s.host.cfg.pad) t else .ok t
      else feed (List.replicate n s.host.cfg.pad) s := by
  simp only [padRows]
  cases feedRows (List.replicate s.host.cfg.align s.host.cfg.pad) (n / s.host.cfg.align) s <;> rfl

theorem finalize_of_open {s : State} {seg : Segment} {bin : BinFile} (h : s.host.phase = .segmentOpen seg bin) :
    finalize s =
      (if 0 < remainingBytes s.host.cfg seg.size then padRows (remainingBytes s.host.cfg seg.size).toNat s
        else .ok s).bind fun t => if s.host.cfg.crc then appendCrc t else .ok t := by
  simp only [finalize, h]
  cases (if 0 < remainingBytes s.host.cfg seg.size then padRows (remainingBytes s.host.cfg seg.size).toNat s
    else .ok s) <;> rfl

theorem onEof_of_open {s : State} {seg : Segment} {bin : BinFile} (h : s.host.phase = .segmentOpen seg bin) :
    onEof s = (if s.host.segCount = 1 then finalize s else .ok s).bind fun t => .ok (endRun (closeSegment t)) := by
  simp only [onEof, h]
  cases (if s.host.segCount = 1 then finalize s else .ok s) <;> rfl

end Sys2Proof.Machine

/-! ## The invariant of the block and of the host

Every step keeps `State.Inv` (10_state.md R43, 42_host_sequencer.md R205, R223, R231). Between the steps of an action
the host is in one of two conditions, `State.Going` and `State.Over`, each of which gives the invariant; every action is
followed through them. -/

namespace Sys2Proof.Machine

/-! ### The block -/

/-- The operation keeps the invariant of the block. -/
def KeepsBlockInv (op : Block → Block × Response) : Prop := ∀ b : Block, b.Inv → (op b).1.Inv

theorem keepsBlockInv_guarded {op : Block → Block × Response} (h : KeepsBlockInv op) :
    KeepsBlockInv (Block.guarded op) := by
  intro b hb
  cases hf : b.faulted with
  | true => simpa [Block.guarded_of_faulted op hf] using hb
  | false => simpa [Block.guarded_of_clear op hf] using h b hb

theorem keepsBlockInv_clear : KeepsBlockInv Block.clear := keepsBlockInv_guarded fun _ hb => hb
theorem keepsBlockInv_fold (buf : Buffer) : KeepsBlockInv (Block.fold buf) := keepsBlockInv_guarded fun _ hb => hb
theorem keepsBlockInv_read : KeepsBlockInv Block.read := keepsBlockInv_guarded fun _ hb => hb
theorem keepsBlockInv_readBytes : KeepsBlockInv Block.readBytes := keepsBlockInv_guarded fun _ hb => hb

theorem Block.inv_raise_malformed (line : Line) (b : Block) : (b.raise (.malformedRecord line)).1.Inv := by
  simp [Block.Inv, ErrReg.ofError]

theorem Block.inv_raise_mismatch (hr : HexRecord) {x y : Byte} (h : x ≠ y) (b : Block) :
    (b.raise (.checksumMismatch hr x y)).1.Inv := by
  simpa [Block.Inv, ErrReg.ofError] using h

/-- The two bytes of a mismatch differ, as `expected` is the checksum less a sum that is not 0 (41_record_decoder.md
R163). -/
theorem expectedChecksum_ne {ty : RecordType} {r : RecordFields} (h : recordSum ty r ≠ 0) :
    expectedChecksum ty r ≠ r.checksum := by
  simpa [expectedChecksum] using h

theorem keepsBlockInv_checkRecord (ty : RecordType) (r : RecordFields) : KeepsBlockInv (Block.checkRecord ty r) := by
  intro b hb
  obtain ⟨-, h⟩ | ⟨hsum, h⟩ := Block.checkRecord_cases ty r b
  · simpa [h] using hb
  · rw [h]
    exact Block.inv_raise_mismatch _ (expectedChecksum_ne hsum) b

theorem keepsBlockInv_decodeRecord (ty : RecordType) (r : RecordFields) : KeepsBlockInv (Block.decodeRecord ty r) :=
  keepsBlockInv_guarded (keepsBlockInv_checkRecord ty r)

theorem keepsBlockInv_decodeLine (line : Line) : KeepsBlockInv (Block.decodeLine line) := by
  refine keepsBlockInv_guarded fun b hb => ?_
  split
  · exact keepsBlockInv_checkRecord _ _ b hb
  · exact Block.inv_raise_malformed line b

theorem Block.inv_clearAll (b : Block) : b.clearAll.1.Inv := by
  simp [Block.Inv, Block.clearAll, ErrReg.empty]

theorem keepsBlockInv_of_operation {i : Instr} {op : Block → Block × Response} (h : operationOf i = some op) :
    KeepsBlockInv op := by
  cases i <;> cases h
  case blkReset => exact fun b _ => b.inv_clearAll
  case blkStat => exact fun _ hb => hb
  case crcClr => exact keepsBlockInv_clear
  case crcSeed v => exact keepsBlockInv_guarded fun _ hb => hb
  case crcFold buf => exact keepsBlockInv_fold buf
  case crcRd => exact keepsBlockInv_read
  case crcRdb => exact keepsBlockInv_readBytes
  case recDec line => exact keepsBlockInv_decodeLine line

/-! ### The two conditions of the host -/

/-- A run is on and the host can act on the next record. -/
structure HostState.Going (h : HostState) : Prop where
  running   : h.status = .running
  notClosed : h.phase ≠ .closed
  phaseInv  : h.PhaseInv

/-- The run has ended, in whatever way. -/
structure HostState.Over (h : HostState) : Prop where
  notRunning : h.status ≠ .running
  closed     : h.phase = .closed
  textClosed : h.textOpen = false

structure State.Going (s : State) : Prop where
  block : s.block.Inv
  host  : s.host.Going

structure State.Over (s : State) : Prop where
  block : s.block.Inv
  host  : s.host.Over

theorem HostState.phaseInv_of_noSegment {h : HostState} (hphase : h.phase = .noSegment) :
    h.PhaseInv ↔ h.segCount = 0 ∧ h.textOpen = false ∧ h.output = { binaries := [], text := [] } := by
  simp only [HostState.PhaseInv, hphase]

theorem HostState.phaseInv_of_open {h : HostState} {seg : Segment} {bin : BinFile}
    (hphase : h.phase = .segmentOpen seg bin) :
    h.PhaseInv ↔ h.segCount = h.output.binaries.length + 1 ∧ h.textOpen = true ∧
      bin.baseAddress = seg.baseAddress ∧ bin.startOffset = seg.startOffset ∧
      bin.bytes.length = seg.size.toNat ∧ seg.runningOffset.toNat ≤ 0xFFFF + 0xFF := by
  simp only [HostState.PhaseInv, hphase]

theorem HostState.Going.inv {h : HostState} (hg : h.Going) : h.Inv :=
  ⟨fun _ => hg.notClosed, fun hstop => absurd hg.running hstop, hg.phaseInv⟩

theorem HostState.Over.inv {h : HostState} (ho : h.Over) : h.Inv := by
  obtain ⟨hstop, hphase, htext⟩ := ho
  exact ⟨fun hrun => absurd hrun hstop, fun _ => ⟨htext, by simp [hphase]⟩, by simpa [HostState.PhaseInv, hphase]⟩

theorem State.Going.inv {s : State} (h : s.Going) : s.Inv := ⟨h.block, h.host.inv⟩

theorem State.Over.inv {s : State} (h : s.Over) : s.Inv := ⟨h.block, h.host.inv⟩

theorem State.Inv.going {s : State} (h : s.Inv) (hrun : s.host.status = .running) : s.Going := by
  obtain ⟨hblock, hopen, -, hphase⟩ := h
  exact ⟨hblock, hrun, hopen hrun, hphase⟩

theorem State.Inv.issue {s : State} (h : s.Inv) (i : Instr) {op : Block → Block × Response} (hop : KeepsBlockInv op) :
    (s.issue i op).Inv := h.imp_left (hop s.block)

theorem State.Going.issue {s : State} (h : s.Going) (i : Instr) {op : Block → Block × Response}
    (hop : KeepsBlockInv op) : (s.issue i op).Going := ⟨hop _ h.block, h.host⟩

/-- Taking a line changes no field the condition speaks of. -/
theorem State.Going.atLine {s : State} (h : s.Going) (l : Line) (rest : List Line) : (s.atLine l rest).Going :=
  ⟨h.block, h.host.running, h.host.notClosed, h.host.phaseInv⟩

theorem abort_over {s : State} (h : s.block.Inv) (e : ErrorValue) : (abort e s).Over :=
  ⟨h, by simp, by simp, by simp⟩

theorem hostRefuse_over {s : State} (h : s.block.Inv) (why : RefuseReason) : (hostRefuse why s).Over :=
  ⟨h, by simp, by simp, by simp⟩

theorem endRun_over {s : State} (h : s.block.Inv) : (endRun s).Over := ⟨h, by simp [endRun], rfl, rfl⟩

/-! ### Actions that can end the run on the way -/

/-- An action that goes on leads to a state of `P`, and one that ends the run leaves it over. -/
def LeadsTo (P : State → Prop) : Except State State → Prop
  | .ok t => P t
  | .error t => t.Over

@[simp] theorem leadsTo_ok (P : State → Prop) (t : State) : LeadsTo P (.ok t) ↔ P t := Iff.rfl

/-- One action after another. -/
theorem LeadsTo.bind {P Q : State → Prop} {x : Except State State} {f : State → Except State State}
    (hx : LeadsTo P x) (hf : ∀ t, P t → LeadsTo Q (f t)) : LeadsTo Q (x.bind f) := by
  cases x with
  | ok t => exact hf t hx
  | error t => exact hx

theorem LeadsTo.settle_inv {P : State → Prop} {x : Except State State} (hx : LeadsTo P x) (hP : ∀ t, P t → t.Inv) :
    (settle x).Inv := by
  cases x with
  | ok t => exact hP t hx
  | error t => exact State.Over.inv hx

/-! ### The sinks -/

theorem emit_going {s : State} (h : s.Going) (buf : List Byte) : LeadsTo State.Going (emit buf s) := by
  cases hphase : s.host.phase with
  | closed => exact absurd hphase h.host.notClosed
  | noSegment => simpa [emit, hphase] using h
  | segmentOpen seg bin =>
    rw [emit_of_open hphase]
    split
    · next hfits =>
      obtain ⟨hcount, htext, hbase, hoff, hlen, hreach⟩ := (HostState.phaseInv_of_open hphase).mp h.host.phaseInv
      have hsize : (seg.size + BitVec.ofNat 32 buf.length).toNat = seg.size.toNat + buf.length := by
        rw [BitVec.toNat_add, BitVec.toNat_ofNat]; omega
      exact ⟨h.block, h.host.running, by simp, hcount, htext, hbase, hoff, by simp [hlen, hsize], hreach⟩
    · exact hostRefuse_over h.block _

theorem feed_going {s : State} (h : s.Going) (buf : List Byte) : LeadsTo State.Going (feed buf s) := by
  rw [feed_eq_bind]
  exact (emit_going h buf).bind fun t ht => State.Going.issue ht (.crcFold buf) (keepsBlockInv_fold buf)

/-! ### Segments -/

theorem closeSegment_blockInv {s : State} (h : s.block.Inv) : (closeSegment s).block.Inv := by
  unfold closeSegment
  split
  · exact keepsBlockInv_read _ h
  · exact h
  · exact h

theorem closeSegment_status (s : State) : (closeSegment s).host.status = s.host.status := by
  unfold closeSegment
  split <;> rfl

/-- With no segment open, every segment counted has its file. -/
theorem closeSegment_segCount {s : State} (h : s.host.Going) :
    (closeSegment s).host.segCount = (closeSegment s).host.output.binaries.length := by
  cases hphase : s.host.phase with
  | closed => exact absurd hphase h.notClosed
  | noSegment =>
    obtain ⟨hcount, -, hout⟩ := (HostState.phaseInv_of_noSegment hphase).mp h.phaseInv
    simp [closeSegment, hphase, hcount, hout]
  | segmentOpen seg bin =>
    obtain ⟨hcount, -⟩ := (HostState.phaseInv_of_open hphase).mp h.phaseInv
    simp [closeSegment, hphase, hcount]

theorem startSegment_going {s : State} (h : s.Going) (base : Word32) (off : Option Word16) :
    (startSegment base off s).Going := by
  have hreach : ((off.getD 0).zeroExtend 32).toNat ≤ 0xFFFF + 0xFF := by
    have := (off.getD 0).isLt
    simp only [BitVec.truncate_eq_setWidth, BitVec.toNat_setWidth]; omega
  exact ⟨keepsBlockInv_clear _ (closeSegment_blockInv h.block), (closeSegment_status s).trans h.host.running,
    by simp [startSegment], congrArg (· + 1) (closeSegment_segCount h.host), rfl, rfl, rfl, rfl, hreach⟩

/-! ### Data records -/

/-- The offset after a record is one a record can reach (42_host_sequencer.md R231). -/
theorem advance_going {s : State} (h : s.Going) (r : HexRecord) : (advance r s).Going := by
  cases hphase : s.host.phase with
  | closed => exact absurd hphase h.host.notClosed
  | noSegment => simpa [advance, hphase] using h
  | segmentOpen seg bin =>
    obtain ⟨hcount, htext, hbase, hoff, hlen, -⟩ := (HostState.phaseInv_of_open hphase).mp h.host.phaseInv
    have hreach : (r.address.zeroExtend 32 + r.byteCount.zeroExtend 32 : Word32).toNat ≤ 0xFFFF + 0xFF := by
      bv_omega
    simp only [advance, hphase]
    exact ⟨h.block, h.host.running, by simp, hcount, htext, hbase, hoff, hlen, hreach⟩

theorem feedPayload_going {s : State} (h : s.Going) (r : HexRecord) : LeadsTo State.Going (feedPayload r s) := by
  rw [feedPayload_eq_bind]
  exact (feed_going h r.payload).bind (Q := State.Going) fun _ ht => advance_going ht r

theorem bridgeGap_going {s : State} (h : s.Going) (seg : Segment) (r : HexRecord) :
    LeadsTo State.Going (bridgeGap seg r s) := by
  unfold bridgeGap
  split_ifs
  · exact startSegment_going h _ _
  · exact feed_going h _
  · exact h

theorem backwardRecord_going {s : State} (h : s.Going) (r : HexRecord) :
    LeadsTo State.Going (backwardRecord r s) := by
  unfold backwardRecord
  split
  · exact hostRefuse_over h.block _
  · exact abort_over h.block _
  · exact feedPayload_going h r

theorem placeData_going {s : State} (h : s.Going) (r : HexRecord) : LeadsTo State.Going (placeData r s) := by
  cases hphase : s.host.phase with
  | segmentOpen seg bin =>
    rw [placeData_of_open hphase]
    split_ifs
    · exact backwardRecord_going h r
    · exact (bridgeGap_going h seg r).bind fun _ ht => feedPayload_going ht r
  | noSegment => simpa [placeData, hphase] using h
  | closed => simpa [placeData, hphase] using h

theorem onData_going {s : State} (h : s.Going) (r : HexRecord) : LeadsTo State.Going (onData r s) := by
  unfold onData
  split
  · exact placeData_going (startSegment_going h _ _) r
  · exact placeData_going h r
  · exact h

/-! ### Address records -/

theorem onAddressRecord_going {s : State} (h : s.Going) (shift : Nat) (r : HexRecord) :
    LeadsTo State.Going (onAddressRecord shift r s) := by
  unfold onAddressRecord
  split
  · exact h
  all_goals
    split_ifs
    · exact startSegment_going h _ _
    · exact abort_over h.block _

/-! ### The end of the file -/

theorem feedRows_going (row : List Byte) (k : Nat) {s : State} (h : s.Going) :
    LeadsTo State.Going (feedRows row k s) := by
  induction k generalizing s with
  | zero => exact h
  | succ k ih =>
    rw [feedRows_succ]
    exact (feed_going h row).bind fun _ ht => ih ht

theorem padRows_going (n : Nat) {s : State} (h : s.Going) : LeadsTo State.Going (padRows n s) := by
  rw [padRows_eq_bind]
  split
  · refine (feedRows_going _ _ h).bind fun t ht => ?_
    split_ifs
    · exact feed_going ht _
    · exact ht
  · exact feed_going h _

theorem appendCrc_going {s : State} (h : s.Going) : LeadsTo State.Going (appendCrc s) :=
  emit_going (h.issue _ keepsBlockInv_readBytes) _

theorem finalize_going {s : State} (h : s.Going) : LeadsTo State.Going (finalize s) := by
  cases hphase : s.host.phase with
  | segmentOpen seg bin =>
    rw [finalize_of_open hphase]
    refine LeadsTo.bind (P := State.Going) ?_ fun t ht => ?_
    · split_ifs
      · exact padRows_going _ h
      · exact h
    · split_ifs
      · exact appendCrc_going ht
      · exact ht
  | noSegment => simpa [finalize, hphase] using h
  | closed => simpa [finalize, hphase] using h

/-- An EndOfFile record ends the run (42_host_sequencer.md R215, R230). -/
theorem onEof_over {s : State} (h : s.Going) : LeadsTo State.Over (onEof s) := by
  cases hphase : s.host.phase with
  | closed => exact absurd hphase h.host.notClosed
  | noSegment => simpa [onEof, hphase] using endRun_over h.block
  | segmentOpen seg bin =>
    rw [onEof_of_open hphase]
    refine LeadsTo.bind (P := State.Going) (Q := State.Over) ?_ fun t ht => endRun_over (closeSegment_blockInv ht.block)
    split_ifs
    · exact finalize_going h
    · exact h

/-! ### Lines and steps -/

theorem settle_hostAction_inv {s : State} (h : s.Going) (ty : RecordType) (r : HexRecord) :
    (settle (hostAction ty r s)).Inv := by
  cases ty with
  | data => exact (onData_going h r).settle_inv fun _ ht => ht.inv
  | endOfFile => exact (onEof_over h).settle_inv fun _ ht => ht.inv
  | extendedSegmentAddress => exact (onAddressRecord_going h _ r).settle_inv fun _ ht => ht.inv
  | extendedLinearAddress => exact (onAddressRecord_going h _ r).settle_inv fun _ ht => ht.inv
  | startSegmentAddress => exact h.inv
  | startLinearAddress => exact h.inv

theorem driveLine_inv {op : Block → Block × Response} {act : HexRecord → State → Except State State} {s : State}
    (h : s.Going) (hop : KeepsBlockInv op) (hact : ∀ r t, t.Going → (settle (act r t)).Inv) :
    (driveLine op act s).Inv := by
  have hissued := h.issue (.recDec s.host.line) hop
  obtain ⟨r, -, heq⟩ | ⟨e, -, heq⟩ | heq := driveLine_cases op act s
  · exact heq ▸ hact r _ hissued
  · exact heq ▸ (abort_over hissued.block e).inv
  · exact heq ▸ (hostRefuse_over hissued.block _).inv

theorem startRun_inv {s : State} (h : s.Inv) (l : Launch) : (startRun l s).Inv := by
  unfold startRun
  split
  · exact h
  · exact State.Going.inv ⟨Block.inv_clearAll s.block, rfl, by simp [HostState.fresh], rfl, rfl, rfl⟩

theorem endOfInput_inv {s : State} (h : s.Going) : (endOfInput s).Inv := by
  unfold endOfInput
  split
  · exact (hostRefuse_over h.block _).inv
  · split_ifs
    · exact (hostRefuse_over h.block _).inv
    · exact (onEof_over h).settle_inv fun _ ht => ht.inv

/-- Settles O56, by the cases of a step; the run's actions are followed through `State.Going` and `State.Over`. -/
theorem everyStepKeepsTheInvariant : Obligations.EveryStepKeepsTheInvariant := by
  intro s t h hstep
  cases stepCase_of_step hstep with
  | operation _ _ hop => exact State.Inv.issue (s := { s.cleared with port := _ }) h _ (keepsBlockInv_of_operation hop)
  | unknownPacket _ _ => exact h
  | start _ _ => exact startRun_inv (s := { s.cleared with launch := none }) h _
  | record _ _ hrun _ _ =>
    exact driveLine_inv ((h.going hrun).atLine _ _) (keepsBlockInv_decodeRecord _ _)
      fun r _ ht => settle_hostAction_inv ht _ r
  | badLine _ _ hrun _ _ =>
    exact driveLine_inv ((h.going hrun).atLine _ _) (keepsBlockInv_decodeLine _) fun _ _ ht => ht.inv
  | endOfInput _ _ hrun _ => exact endOfInput_inv (State.Inv.going (s := s.cleared) h hrun)
  | idle _ _ _ => exact h

/-- Settles O55: nothing was raised, opened or written at power-on. -/
theorem invariantHoldsAtReset : Obligations.InvariantHoldsAtReset := by
  have hblock : State.reset.block.Inv := Block.inv_clearAll Block.initial
  have hhost : State.reset.host.Inv := ⟨by decide, fun _ => ⟨rfl, nofun⟩, rfl, rfl, rfl⟩
  exact ⟨⟨hblock, hhost⟩, fun _ => rfl⟩

end Sys2Proof.Machine

/-! ## The record of responses is not read

`State.traffic` is the model's own record of what the host was told (10_state.md R38; log 2). Every instruction commutes
with exchanges put before it, so it reads none of them and only appends its own. -/

namespace Sys2Proof.Machine

/-- `s` with `xs` told to the host before everything it records. -/
def State.prepend (xs : List Exchange) (s : State) : State := { s with traffic := xs ++ s.traffic }

/-- `State.prepend` of the state an action leaves, whether it went on or ended the run. -/
def prependEnd (xs : List Exchange) : Except State State → Except State State
  | .ok t => .ok (t.prepend xs)
  | .error t => .error (t.prepend xs)

variable (xs : List Exchange) (s : State)

@[simp] theorem State.prepend_block : (s.prepend xs).block = s.block := rfl
@[simp] theorem State.prepend_host : (s.prepend xs).host = s.host := rfl
@[simp] theorem State.prepend_traffic : (s.prepend xs).traffic = xs ++ s.traffic := rfl
@[simp] theorem prependEnd_ok : prependEnd xs (.ok s) = .ok (s.prepend xs) := rfl
@[simp] theorem prependEnd_error : prependEnd xs (.error s) = .error (s.prepend xs) := rfl

@[simp] theorem prependEnd_ite (c : Prop) [Decidable c] (x y : Except State State) :
    prependEnd xs (if c then x else y) = if c then prependEnd xs x else prependEnd xs y := apply_ite _ c x y

/-- One action after another: if the second commutes with the record, the two do. -/
theorem prependEnd_bind {f : State → Except State State} (h : ∀ t, f (t.prepend xs) = prependEnd xs (f t))
    (x : Except State State) : prependEnd xs (x.bind f) = (prependEnd xs x).bind f := by
  cases x with
  | ok t => exact (h t).symm
  | error t => rfl

@[simp] theorem settle_prependEnd (x : Except State State) : settle (prependEnd xs x) = (settle x).prepend xs := by
  cases x <;> rfl

/-! ### The state's operations -/

@[simp] theorem issue_prepend (i : Instr) (op : Block → Block × Response) :
    (s.prepend xs).issue i op = (s.issue i op).prepend xs := by
  simp [State.issue, State.prepend]

@[simp] theorem withHost_prepend (h : HostState) : (s.prepend xs).withHost h = (s.withHost h).prepend xs := rfl

@[simp] theorem abort_prepend (e : ErrorValue) : abort e (s.prepend xs) = (abort e s).prepend xs := rfl

@[simp] theorem hostRefuse_prepend (why : RefuseReason) :
    hostRefuse why (s.prepend xs) = (hostRefuse why s).prepend xs := rfl

@[simp] theorem endRun_prepend : endRun (s.prepend xs) = (endRun s).prepend xs := rfl

/-! ### The sinks and the segments -/

@[simp] theorem emit_prepend (buf : List Byte) : emit buf (s.prepend xs) = prependEnd xs (emit buf s) := by
  unfold emit
  cases h : s.host.phase with
  | segmentOpen seg bin =>
    simp [h]
  | noSegment => simp [h]
  | closed => simp [h]

@[simp] theorem feed_prepend (buf : List Byte) : feed buf (s.prepend xs) = prependEnd xs (feed buf s) := by
  rw [feed_eq_bind, feed_eq_bind, prependEnd_bind xs (fun t => by simp), emit_prepend]

@[simp] theorem closeSegment_prepend : closeSegment (s.prepend xs) = (closeSegment s).prepend xs := by
  cases h : s.host.phase <;> simp [closeSegment, h]

@[simp] theorem startSegment_prepend (base : Word32) (off : Option Word16) :
    startSegment base off (s.prepend xs) = (startSegment base off s).prepend xs := by
  simp [startSegment]

/-! ### Data and address records -/

@[simp] theorem advance_prepend (r : HexRecord) : advance r (s.prepend xs) = (advance r s).prepend xs := by
  cases h : s.host.phase <;> simp [advance, h]

@[simp] theorem feedPayload_prepend (r : HexRecord) :
    feedPayload r (s.prepend xs) = prependEnd xs (feedPayload r s) := by
  rw [feedPayload_eq_bind, feedPayload_eq_bind, prependEnd_bind xs (fun t => by simp), feed_prepend]

@[simp] theorem bridgeGap_prepend (seg : Segment) (r : HexRecord) :
    bridgeGap seg r (s.prepend xs) = prependEnd xs (bridgeGap seg r s) := by
  simp [bridgeGap]

@[simp] theorem backwardRecord_prepend (r : HexRecord) :
    backwardRecord r (s.prepend xs) = prependEnd xs (backwardRecord r s) := by
  cases h : s.host.cfg.backward <;> simp [backwardRecord, h]

@[simp] theorem placeData_prepend (r : HexRecord) : placeData r (s.prepend xs) = prependEnd xs (placeData r s) := by
  cases h : s.host.phase with
  | segmentOpen seg bin =>
    simp [placeData_of_open (s := s) h, placeData_of_open (s := s.prepend xs) h, prependEnd_bind]
  | noSegment => simp [placeData, h]
  | closed => simp [placeData, h]

theorem onData_prepend (r : HexRecord) : onData r (s.prepend xs) = prependEnd xs (onData r s) := by
  cases h : s.host.phase <;> simp [onData, h]

theorem onAddressRecord_prepend (shift : Nat) (r : HexRecord) :
    onAddressRecord shift r (s.prepend xs) = prependEnd xs (onAddressRecord shift r s) := by
  cases h : s.host.phase <;> simp [onAddressRecord, h]

/-! ### The end of the file -/

@[simp] theorem feedRows_prepend (row : List Byte) (k : Nat) :
    feedRows row k (s.prepend xs) = prependEnd xs (feedRows row k s) := by
  induction k generalizing s with
  | zero => rfl
  | succ k ih =>
    simp [feedRows_succ, prependEnd_bind, ih]

@[simp] theorem padRows_prepend (n : Nat) : padRows n (s.prepend xs) = prependEnd xs (padRows n s) := by
  simp [padRows_eq_bind, prependEnd_bind]
  rfl

@[simp] theorem appendCrc_prepend : appendCrc (s.prepend xs) = prependEnd xs (appendCrc s) := by
  simp [appendCrc]

@[simp] theorem finalize_prepend : finalize (s.prepend xs) = prependEnd xs (finalize s) := by
  cases h : s.host.phase with
  | segmentOpen seg bin =>
    simp [finalize_of_open (s := s) h, finalize_of_open (s := s.prepend xs) h, prependEnd_bind]
    rfl
  | noSegment => simp [finalize, h]
  | closed => simp [finalize, h]

theorem onEof_prepend : onEof (s.prepend xs) = prependEnd xs (onEof s) := by
  cases h : s.host.phase with
  | segmentOpen seg bin =>
    rw [onEof_of_open h, onEof_of_open (s := s.prepend xs) h, prependEnd_bind xs (fun t => by simp)]
    simp
  | noSegment => simp [onEof, h]
  | closed => simp [onEof, h]

/-! ### Instructions -/

theorem hostAction_prepend (ty : RecordType) (r : HexRecord) :
    hostAction ty r (s.prepend xs) = prependEnd xs (hostAction ty r s) := by
  cases ty with
  | data => exact onData_prepend xs s r
  | endOfFile => exact onEof_prepend xs s
  | extendedSegmentAddress => exact onAddressRecord_prepend xs s _ r
  | extendedLinearAddress => exact onAddressRecord_prepend xs s _ r
  | startSegmentAddress => rfl
  | startLinearAddress => rfl

theorem driveLine_prepend (op : Block → Block × Response) {act : HexRecord → State → Except State State}
    (hact : ∀ r t, act r (t.prepend xs) = prependEnd xs (act r t)) :
    driveLine op act (s.prepend xs) = (driveLine op act s).prepend xs := by
  cases h : (op s.block).2 <;> simp [driveLine, h, hact]

/-- Every instruction answers, and what it does commutes with the record before it. -/
theorem exec_prepend (i : Instr) : ∃ t, exec i s = .next t ∧ ∀ xs, exec i (s.prepend xs) = .next (t.prepend xs) := by
  obtain ⟨op, hop⟩ | ⟨ty, r, rfl⟩ := operation_or_record i
  · exact ⟨_, exec_of_operation hop s, fun xs => by rw [exec_of_operation hop, issue_prepend]⟩
  · exact ⟨_, exec_ofRecord ty r s, fun xs => by
      rw [exec_ofRecord, driveLine_prepend xs s _ fun hr t => hostAction_prepend xs t ty hr]⟩

/-- Settles O30: the exchanges an instruction appends are those it makes on the empty record, put after any other. -/
theorem trafficIsInvisible : Obligations.TrafficIsInvisible := by
  intro i s xs
  obtain ⟨t, -, h⟩ := exec_prepend { s with traffic := [] } i
  have hrecord (ys : List Exchange) : ({ s with traffic := [] } : State).prepend ys = { s with traffic := ys } := by
    simp [State.prepend]
  refine ⟨t.prepend s.traffic, t.traffic, ?_, rfl, ?_⟩
  · simpa [hrecord] using h s.traffic
  · simpa [hrecord, State.prepend] using h xs

end Sys2Proof.Machine

/-! ## What a step runs

The decoded form of the next packet or line is executed on the state with it taken. -/

namespace Sys2Proof.Machine

/-- The encoded words taken next are what is run, whether they came from the port or from the run's input. -/
theorem step_of_fetch {s t : State} {e : Encoded} {i : Instr} (hfetch : fetch s = (.encoded e, t))
    (hdecode : decode e = .ok i) : step s = exec i t := by
  simp only [step, hfetch, hdecode]

/-- Settles O5: by what `fetch` takes from the port, and from the input of a run (20_memory.md R73, R77;
42_host_sequencer.md R202). -/
theorem stepRunsTheDecodedInstruction : Obligations.StepRunsTheDecodedInstruction := by
  constructor
  · intro s p rest i hport hdecode
    exact step_of_fetch (fetch_of_port hport) hdecode
  · intro s l rest i hline hdecode
    obtain ⟨hport, hlaunch, hrun, hinput⟩ := hline
    exact step_of_fetch (fetch_of_line hport hlaunch hrun hinput) hdecode

end Sys2Proof.Machine

/-! ## Hexadecimal text

What the readers of digits, bytes, addresses and runs answer, as numbers (O4) and as the upper-case characters the
encoder writes (30_encoding.md R93 to R96). -/

namespace Sys2Proof

/-! ### Digits, bytes and addresses as numbers -/

theorem hexVal_eq_some_iff (c : Byte) (d : BitVec 4) :
    hexVal c = some d ↔
      (0x30 ≤ c ∧ c ≤ 0x39 ∧ c.toNat = 0x30 + d.toNat) ∨ (0x41 ≤ c ∧ c ≤ 0x46 ∧ c.toNat + 10 = 0x41 + d.toNat) ∨
        (0x61 ≤ c ∧ c ≤ 0x66 ∧ c.toNat + 10 = 0x61 + d.toNat) := by
  unfold hexVal
  split_ifs with h1 h2 h3
  · simp only [Option.some.injEq]; bv_omega
  · simp only [Option.some.injEq]; bv_omega
  · simp only [Option.some.injEq]; bv_omega
  · simp only [false_iff]; bv_omega

theorem hexPair_of_digits {h l : Byte} {hi lo : BitVec 4} (hh : hexVal h = some hi) (hl : hexVal l = some lo) :
    hexPair h l = some (hi ++ lo) := by
  simp [hexPair, hh, hl]

theorem hex2_of_digits {cs : Line} {o : Nat} {hi lo : BitVec 4} (hh : (lineChar cs o).bind hexVal = some hi)
    (hl : (lineChar cs (o + 1)).bind hexVal = some lo) : hex2 cs o = some (hi ++ lo) := by
  obtain ⟨h, hc, hh⟩ := Option.bind_eq_some_iff.mp hh
  obtain ⟨l, lc, hl⟩ := Option.bind_eq_some_iff.mp hl
  simp [hex2, hc, lc, hexPair_of_digits hh hl]

theorem hex4_of_bytes {cs : Line} {o : Nat} {hi lo : Byte} (hh : hex2 cs o = some hi) (hl : hex2 cs (o + 2) = some lo) :
    hex4 cs o = some (hi ++ lo) := by
  simp [hex4, hh, hl]

/-- The bits put first count most (30_encoding.md R94, R95). -/
theorem toNat_append_bits {n m : Nat} (x : BitVec n) (y : BitVec m) : (x ++ y).toNat = 2 ^ m * x.toNat + y.toNat := by
  rw [BitVec.toNat_append, ← Nat.shiftLeft_add_eq_or_of_lt y.isLt, Nat.shiftLeft_eq, Nat.mul_comm]

/-- Settles O4: the digits by the three ranges of `hexVal`, the byte and the address by the digits put together. -/
theorem hexFieldsReadMostSignificantFirst : Obligations.HexFieldsReadMostSignificantFirst := by
  refine ⟨hexVal_eq_some_iff, ?_, ?_⟩
  · intro cs o h l hh hl
    exact ⟨_, hex2_of_digits hh hl, toNat_append_bits h l⟩
  · intro cs o h3 h4 h5 h6 hh3 hh4 hh5 hh6
    refine ⟨_, hex4_of_bytes (hex2_of_digits hh3 hh4) (hex2_of_digits hh5 hh6), ?_⟩
    rw [toNat_append_bits, toNat_append_bits, toNat_append_bits]
    omega

/-! ### Upper case -/

/-- The upper-case form of a hexadecimal letter; every other character as it is. -/
def upperCase (c : Byte) : Byte := if 0x61 ≤ c ∧ c ≤ 0x66 then c - 0x20 else c

theorem canonical_line (cs : Line) : Claims.canonical (.line cs) = .line (cs.map upperCase) := rfl

/-- A character has the value of a digit when its upper-case form is that digit. -/
theorem hexVal_eq_some_iff_upperCase (c : Byte) (d : BitVec 4) : hexVal c = some d ↔ upperCase c = hexDigit d := by
  rw [hexVal_eq_some_iff]
  unfold upperCase hexDigit
  split_ifs <;> bv_omega

theorem upperCase_hexDigit (d : BitVec 4) : upperCase (hexDigit d) = hexDigit d :=
  (hexVal_eq_some_iff_upperCase _ d).mp (hexVal_hexDigit d)

theorem map_upperCase_hexByte (b : Byte) : (hexByte b).map upperCase = hexByte b := by
  simp [hexByte, upperCase_hexDigit]

/-! ### What is read at an offset -/

/-- A value put together from two parts has just these parts. -/
theorem append_eq_iff {n m : Nat} (hi : BitVec n) (lo : BitVec m) (x : BitVec (n + m)) :
    hi ++ lo = x ↔ x.extractLsb' m n = hi ∧ x.extractLsb' 0 m = lo := by
  constructor
  · rintro rfl
    exact ⟨BitVec.extractLsb'_append_eq_left, BitVec.extractLsb'_append_eq_right⟩
  · rintro ⟨rfl, rfl⟩
    exact BitVec.extractLsb'_append_extractLsb'

theorem hexPair_eq_some_iff (h l b : Byte) : hexPair h l = some b ↔ [upperCase h, upperCase l] = hexByte b := by
  have hsplit : hexPair h l = some b ↔ hexVal h = some (b.extractLsb' 4 4) ∧ hexVal l = some (b.extractLsb' 0 4) := by
    cases hh : hexVal h with
    | none => simp [hexPair, hh]
    | some hi =>
      cases hl : hexVal l with
      | none => simp [hexPair, hh, hl]
      | some lo => simpa [hexPair, hh, hl, eq_comm] using append_eq_iff hi lo b
  simp [hsplit, hexVal_eq_some_iff_upperCase, hexByte]

/-- `hex2` reads the two characters that come first after `o`. -/
theorem hex2_eq_some_iff (line : Line) (o : Nat) (b : Byte) :
    hex2 line o = some b ↔ (line.map upperCase).drop o = hexByte b ++ (line.map upperCase).drop (o + 2) := by
  have hshift : hex2 line o = hex2 (line.drop o) 0 := by simp [hex2, lineChar]
  rw [hshift, ← List.drop_drop, ← List.map_drop]
  match line.drop o with
  | [] => simp [hex2, lineChar, hexByte]
  | [_] => simp [hex2, lineChar, hexByte]
  | h :: l :: rest =>
    have : hex2 (h :: l :: rest) 0 = hexPair h l := rfl
    simp [this, hexPair_eq_some_iff, hexByte]

/-- `hex4` reads the high byte first. -/
theorem hex4_eq_some_iff (line : Line) (o : Nat) (a : Word16) :
    hex4 line o = some a ↔ hex2 line o = some (addressHi a) ∧ hex2 line (o + 2) = some (addressLo a) := by
  unfold hex4
  cases hex2 line o with
  | none => simp
  | some hi =>
    cases hex2 line (o + 2) with
    | none => simp
    | some lo => simpa [addressHi, addressLo, eq_comm] using append_eq_iff hi lo a

theorem hexRun_succ_eq_some_iff (n : Nat) (h l : Byte) (rest : Line) (b : Byte) (bs : List Byte) :
    hexRun (n + 1) (h :: l :: rest) = some (b :: bs) ↔ hexPair h l = some b ∧ hexRun n rest = some bs := by
  cases hb : hexPair h l with
  | none => simp [hexRun, hb]
  | some c => cases hbs : hexRun n rest <;> simp [hexRun, hb, hbs]

/-- A run of `n` bytes reads the `2 * n` characters that come first. -/
theorem hexRun_eq_some_iff (n : Nat) (line : Line) (bs : List Byte) :
    hexRun n line = some bs ↔
      bs.length = n ∧ line.map upperCase = bs.flatMap hexByte ++ (line.map upperCase).drop (2 * n) := by
  induction n generalizing line bs with
  | zero => cases bs <;> simp [hexRun]
  | succ n ih =>
    cases bs with
    | nil => exact iff_of_false (fun h => by simpa using length_of_hexRun h) (by simp)
    | cons b bs =>
      match line with
      | [] => simp [hexRun, hexByte]
      | [_] => simp [hexRun, hexByte]
      | h :: l :: rest =>
        rw [hexRun_succ_eq_some_iff, hexPair_eq_some_iff, ih, show 2 * (n + 1) = 2 * n + 2 from rfl]
        simp [hexByte]
        tauto

end Sys2Proof

/-! ## Words and the instructions they spell

Words decode to an instruction exactly when it is well-formed and they are its words up to the case of letters
(`decode_eq_ok_iff`), which is both round trips. -/

namespace Sys2Proof

/-! ### Lines and records -/

theorem RecordType.ofCode_eq_some_iff (c : Byte) (t : RecordType) : ofCode c = some t ↔ c = t.code := by
  constructor
  · intro h
    unfold ofCode at h
    split_ifs at h <;> cases h <;> assumption
  · rintro rfl
    exact ofCode_code t

theorem RecordFields.wellFormed_iff (r : RecordFields) :
    r.wellFormed = true ↔ r.payload.length = r.byteCount.toNat := by
  simp [wellFormed]

theorem parseBody_eq_ok_iff (line : Line) (n : Byte) (a : Word16) (c : Byte) (t : RecordType) (r : RecordFields) :
    parseBody line n a c = .ok (t, r) ↔
      n = r.byteCount ∧ a = r.address ∧ c = t.code ∧ hexRun r.byteCount.toNat (line.drop 9) = some r.payload ∧
        hex2 line (9 + 2 * r.byteCount.toNat) = some r.checksum := by
  constructor
  · intro h
    unfold parseBody at h
    split at h
    · next hrun hck =>
      split at h
      · next hty =>
        cases h
        exact ⟨rfl, rfl, (RecordType.ofCode_eq_some_iff _ _).mp hty, hrun, hck⟩
      · cases h
    · cases h
  · rintro ⟨rfl, rfl, rfl, hrun, hck⟩
    simp [parseBody, hrun, hck]

/-- Where the fields of the record a line spells stand (30_encoding.md R91), and how long the line is (R97). -/
theorem parseRecord_eq_ok_iff (line : Line) (t : RecordType) (r : RecordFields) :
    parseRecord Config.lineParams line = .ok (t, r) ↔
      line.length = 11 + 2 * r.byteCount.toNat ∧ lineChar line 0 = some Config.startCode ∧
        hex2 line 1 = some r.byteCount ∧ hex4 line 3 = some r.address ∧ hex2 line 7 = some t.code ∧
        hexRun r.byteCount.toNat (line.drop 9) = some r.payload ∧
        hex2 line (9 + 2 * r.byteCount.toNat) = some r.checksum := by
  constructor
  · intro h
    unfold parseRecord at h
    split_ifs at h with hshort hstart
    split at h
    · next hn ha ht =>
      split_ifs at h with hlen
      obtain ⟨rfl, rfl, rfl, hrun, hck⟩ := (parseBody_eq_ok_iff _ _ _ _ _ _).mp h
      refine ⟨?_, ?_, hn, ha, ht, hrun, hck⟩
      · simpa [badLength, Config.lineParams] using hlen
      · simpa [Config.lineParams] using hstart
    · cases h
  · rintro ⟨hlen, hstart, hn, ha, ht, hrun, hck⟩
    have hlong : ¬ line.length < 9 := by omega
    simp only [parseRecord, hlong, hstart, hn, ha, ht]
    simpa [badLength, Config.lineParams, hlen] using
      (parseBody_eq_ok_iff line _ _ _ t r).mpr ⟨rfl, rfl, rfl, hrun, hck⟩

theorem lineChar_zero_eq_startCode_iff (line : Line) :
    lineChar line 0 = some Config.startCode ↔
      line.map upperCase = Config.startCode :: (line.map upperCase).drop 1 := by
  have hcolon (c : Byte) : c = Config.startCode ↔ upperCase c = Config.startCode := by
    unfold upperCase Config.startCode
    split_ifs <;> bv_omega
  cases line with
  | nil => simp [lineChar]
  | cons c cs => simpa [lineChar] using hcolon c

/-- A line spells a record when, in upper case, it is the line of the record. -/
theorem parseRecord_eq_ok_iff_encodeRecord (line : Line) (t : RecordType) (r : RecordFields) :
    parseRecord Config.lineParams line = .ok (t, r) ↔
      r.wellFormed = true ∧ line.map upperCase = encodeRecord t r := by
  rw [parseRecord_eq_ok_iff, lineChar_zero_eq_startCode_iff, hex4_eq_some_iff, hexRun_eq_some_iff,
    RecordFields.wellFormed_iff]
  simp only [hex2_eq_some_iff, List.map_drop]
  rw [← List.length_map (f := upperCase) (as := line)]
  generalize line.map upperCase = cs
  constructor
  · rintro ⟨hlen, hstart, hn, ⟨hhi, hlo⟩, ht, ⟨hcount, hrun⟩, hck⟩
    refine ⟨hcount, ?_⟩
    have hend : cs.drop (9 + 2 * r.byteCount.toNat + 2) = [] := List.drop_eq_nil_of_le (by omega)
    rw [hstart, hn, hhi, hlo, ht, hrun, List.drop_drop, hck, hend]
    simp [encodeRecord]
  · rintro ⟨hcount, rfl⟩
    have hbody : (encodeRecord t r).drop 9 = r.payload.flatMap hexByte ++ hexByte r.checksum := rfl
    have hck : (encodeRecord t r).drop (9 + 2 * r.byteCount.toNat) = hexByte r.checksum := by
      rw [← List.drop_drop, hbody, ← hcount, ← length_flatMap_hexByte, List.drop_left]
    refine ⟨by rw [length_encodeRecord, hcount], rfl, rfl, ⟨rfl, rfl⟩, rfl, ⟨hcount, ?_⟩, ?_⟩
    · rw [List.drop_drop, hck, hbody]
    · rw [hck, List.drop_eq_nil_of_le (by rw [length_encodeRecord]; omega), List.append_nil]

theorem map_upperCase_encodeRecord (t : RecordType) (r : RecordFields) :
    (encodeRecord t r).map upperCase = encodeRecord t r := by
  have hcolon : upperCase Config.startCode = Config.startCode := by decide
  simp [encodeRecord, map_upperCase_hexByte, hcolon, List.map_flatMap]

@[simp] theorem encode_ofRecord (t : RecordType) (r : RecordFields) :
    encode (.ofRecord t r) = .line (encodeRecord t r) := by
  cases t <;> rfl

@[simp] theorem wellFormed_ofRecord (t : RecordType) (r : RecordFields) :
    (Instr.ofRecord t r).wellFormed = r.wellFormed := by
  cases t <;> rfl

theorem decodeLine_eq_ok_iff_parseRecord (line : Line) (i : Instr) :
    decodeLine line = .ok i ↔ ∃ t r, i = .ofRecord t r ∧ parseRecord Config.lineParams line = .ok (t, r) := by
  constructor
  · intro h
    unfold decodeLine at h
    split at h
    · next hparse =>
      cases h
      exact ⟨_, _, rfl, hparse⟩
    · cases h
  · rintro ⟨t, r, rfl, hparse⟩
    simp [decodeLine, hparse]

/-! ### Packets -/

theorem bareOperation_eq_ok_iff {i j : Instr} {operand : List Byte} :
    bareOperation i operand = .ok j ↔ operand = [] ∧ j = i := by
  cases operand <;> simp [bareOperation, eq_comm]

/-- The three bytes of a seed, most significant first (40_crc24_ops.md R137). -/
theorem seed_eq_iff (hi mid lo : Byte) (v : Word24) :
    hi ++ mid ++ lo = v ↔ v.extractLsb' 16 8 = hi ∧ v.extractLsb' 8 8 = mid ∧ v.extractLsb' 0 8 = lo := by
  have hhi : (v.extractLsb' 8 16).extractLsb' 8 8 = v.extractLsb' 16 8 := by ext k hk; simp [← Nat.add_assoc]; omega
  have hmid : (v.extractLsb' 8 16).extractLsb' 0 8 = v.extractLsb' 8 8 := by ext k hk; simp; omega
  rw [append_eq_iff (hi ++ mid) lo v, eq_comm (b := hi ++ mid), append_eq_iff hi mid, hhi, hmid, and_assoc]

/-- A packet spells the operation whose words it is, and no other. -/
theorem decodePacket_eq_ok_iff (p : List Byte) (i : Instr) : decodePacket p = .ok i ↔ encode i = .packet p := by
  constructor
  · intro h
    cases p with
    | nil => cases h
    | cons code operand =>
      have bare {j : Instr} {c : Byte} (hcode : code = c) (hj : bareOperation j operand = .ok i)
          (hencode : encode j = .packet [c]) : encode i = .packet (code :: operand) := by
        obtain ⟨rfl, rfl⟩ := bareOperation_eq_ok_iff.mp hj
        rw [hencode, hcode]
      simp only [decodePacket] at h
      split_ifs at h with hreset hstat hclr hseed hfold hrd hrdb hdec
      · exact bare hreset h rfl
      · exact bare hstat h rfl
      · exact bare hclr h rfl
      · split at h
        · next hi mid lo =>
          cases h
          obtain ⟨hhi, hmid, hlo⟩ := (seed_eq_iff hi mid lo _).mp rfl
          simp [encode, hseed, hhi, hmid, hlo]
        · cases h
      · cases h; rw [hfold]; rfl
      · exact bare hrd h rfl
      · exact bare hrdb h rfl
      · cases h; rw [hdec]; rfl
  · intro h
    cases i with
    | crcSeed v =>
      cases h
      exact congrArg (Except.ok ∘ Instr.crcSeed) ((seed_eq_iff _ _ _ v).mpr ⟨rfl, rfl, rfl⟩)
    | _ => cases h <;> rfl

/-! ### Round trips -/

theorem encode_of_operation {i : Instr} {op : Machine.Block → Machine.Block × Machine.Response}
    (h : Machine.operationOf i = some op) : i.wellFormed = true ∧ ∃ p, encode i = .packet p := by
  cases i <;> cases h <;> exact ⟨rfl, _, rfl⟩

/-- Packets are the words of operations, which have no check. -/
theorem wellFormed_of_encode_packet {i : Instr} {p : List Byte} (h : encode i = .packet p) : i.wellFormed = true := by
  obtain ⟨op, hop⟩ | ⟨t, r, rfl⟩ := Machine.operation_or_record i
  · exact (encode_of_operation hop).1
  · simp at h

theorem encode_eq_line_iff (i : Instr) (cs : Line) :
    encode i = .line cs ↔ ∃ t r, i = .ofRecord t r ∧ cs = encodeRecord t r := by
  constructor
  · intro h
    obtain ⟨op, hop⟩ | ⟨t, r, rfl⟩ := Machine.operation_or_record i
    · obtain ⟨-, p, hp⟩ := encode_of_operation hop
      cases hp.symm.trans h
    · exact ⟨t, r, rfl, by simpa [eq_comm] using h⟩
  · rintro ⟨t, r, rfl, rfl⟩
    exact encode_ofRecord t r

/-- An instruction's words are in the spelling `canonical` gives. -/
theorem canonical_encode (i : Instr) : Claims.canonical (encode i) = encode i := by
  cases h : encode i with
  | packet p => rfl
  | line cs =>
    obtain ⟨t, r, -, rfl⟩ := (encode_eq_line_iff i cs).mp h
    rw [canonical_line, map_upperCase_encodeRecord]

/-- A line spells the record form whose line it is in upper case, and no other. -/
theorem decodeLine_eq_ok_iff (cs : Line) (i : Instr) :
    decodeLine cs = .ok i ↔ i.wellFormed = true ∧ encode i = .line (cs.map upperCase) := by
  rw [decodeLine_eq_ok_iff_parseRecord, encode_eq_line_iff]
  constructor
  · rintro ⟨t, r, rfl, hparse⟩
    obtain ⟨hwf, hline⟩ := (parseRecord_eq_ok_iff_encodeRecord cs t r).mp hparse
    exact ⟨(wellFormed_ofRecord t r).trans hwf, t, r, rfl, hline⟩
  · rintro ⟨hwf, t, r, rfl, hline⟩
    rw [wellFormed_ofRecord] at hwf
    exact ⟨t, r, rfl, (parseRecord_eq_ok_iff_encodeRecord cs t r).mpr ⟨hwf, hline⟩⟩

/-- Words decode to the well-formed instruction whose words they are up to the case of letters, and to no other
(30_encoding.md R93, R106). -/
theorem decode_eq_ok_iff (e : Encoded) (i : Instr) :
    decode e = .ok i ↔ i.wellFormed = true ∧ encode i = Claims.canonical e := by
  cases e with
  | packet p => exact (decodePacket_eq_ok_iff p i).trans ⟨fun h => ⟨wellFormed_of_encode_packet h, h⟩, And.right⟩
  | line cs => exact decodeLine_eq_ok_iff cs i

/-- Settles O2: the words of an instruction are already in the spelling they are compared in. -/
theorem decodeOfEncode : Obligations.DecodeOfEncode := fun i hwf =>
  (decode_eq_ok_iff (encode i) i).mpr ⟨hwf, (canonical_encode i).symm⟩

/-- Settles O3: one direction of `decode_eq_ok_iff`. -/
theorem encodeOfDecode : Obligations.EncodeOfDecode := fun e i => (decode_eq_ok_iff e i).mp

/-- Settles O1: the decoder evaluates on the fourteen words. -/
theorem spelledWordsDecode : Obligations.SpelledWordsDecode :=
  ⟨rfl, rfl, rfl, rfl, rfl, rfl, rfl, rfl, rfl, rfl, rfl, rfl, rfl, rfl⟩

end Sys2Proof

/-! ## Placed words and undefined codes

What `placeEncoded` puts where the next step fetches is what that step runs; a packet of an undefined code is
refused. -/

namespace Sys2Proof.Machine

/-! ### Stripping the line of a record -/

/-- A line with no blank at either end is not changed by stripping (42_host_sequencer.md R203). -/
theorem strip_of_ends {first last : Byte} (hfirst : isBlank first = false) (hlast : isBlank last = false) (mid : Line) :
    strip (first :: (mid ++ [last])) = first :: (mid ++ [last]) := by
  simp [strip, hfirst, hlast]

theorem isBlank_hexDigit : ∀ d : BitVec 4, isBlank (hexDigit d) = false := by decide

theorem strip_encodeRecord (t : RecordType) (r : RecordFields) : strip (encodeRecord t r) = encodeRecord t r := by
  have h := strip_of_ends (first := Config.startCode) (by decide) (isBlank_hexDigit (r.checksum.extractLsb' 0 4))
    (hexByte r.byteCount ++ hexByte (addressHi r.address) ++ hexByte (addressLo r.address) ++ hexByte t.code
      ++ r.payload.flatMap hexByte ++ [hexDigit (r.checksum.extractLsb' 4 4)])
  simpa [encodeRecord, hexByte] using h

/-! ### What the next step takes -/

theorem HostState.ready_status (h : HostState) : h.ready.status = .running := by
  unfold ready
  split
  · assumption
  · rfl

theorem HostState.ready_of_running {h : HostState} (hrun : h.status = .running) : h.ready = h := if_pos hrun

/-- A packet is put at the head of the port and taken from there. -/
theorem fetch_placeEncoded_packet (p : List Byte) (s : State) :
    fetch (placeEncoded (.packet p) s) = (.encoded (.packet p), s.cleared) :=
  fetch_of_port rfl

/-- The state in which the line `cs`, placed on `s`, has been taken. -/
def State.atPlacedLine (s : State) (cs : Line) : State :=
  (placeEncoded (.line cs) s).atLine cs s.host.ready.input

/-- A line is put first in the input of a run and taken from there, stripped. -/
theorem fetch_placeEncoded_line {cs : Line} (hstrip : strip cs = cs) (s : State) :
    fetch (placeEncoded (.line cs) s) = (.encoded (.line cs), s.atPlacedLine cs) := by
  have h : fetch (placeEncoded (.line cs) s) = (.encoded (.line (strip cs)), s.atPlacedLine cs) :=
    fetch_of_line rfl rfl s.host.ready_status rfl
  rwa [hstrip] at h

theorem atPlacedLine_host {s : State} {cs : Line} (hrun : s.host.status = .running) :
    (s.atPlacedLine cs).host = { s.host with line := strip cs } := by
  simp [State.atPlacedLine, State.atLine, placeEncoded, HostState.ready_of_running hrun]

/-- Settles O6: what was placed is what `fetch` takes, and stripping leaves the line of a record as it is. -/
theorem placedInstructionRunsNext : Obligations.PlacedInstructionRunsNext := by
  intro s i hwf
  have hdecode := decodeOfEncode i hwf
  cases hencode : encode i with
  | packet p =>
    rw [hencode] at hdecode
    refine ⟨s.cleared, step_of_fetch (fetch_placeEncoded_packet p s) hdecode, rfl, rfl, rfl, rfl, ?_, nofun⟩
    exact fun _ _ => ⟨rfl, rfl, rfl⟩
  | line cs =>
    rw [hencode] at hdecode
    have hstrip : strip cs = cs := by
      obtain ⟨t, r, -, rfl⟩ := (encode_eq_line_iff i cs).mp hencode
      exact strip_encodeRecord t r
    refine ⟨s.atPlacedLine cs, step_of_fetch (fetch_placeEncoded_line hstrip s) hdecode, rfl, rfl, rfl, rfl, nofun, ?_⟩
    rintro _ ⟨⟩
    exact ⟨rfl, rfl, hstrip, s.host.ready_status, fun hrun => by rw [atPlacedLine_host hrun, hstrip]⟩

/-! ### Undefined codes -/

/-- Words taken next that spell no instruction have the effect of `undecodable`. -/
theorem step_of_fetch_error {s t : State} {e : Encoded} {err : DecodeError} (hfetch : fetch s = (.encoded e, t))
    (hdecode : decode e = .error err) : step s = .next (undecodable e t) := by
  simp only [step, hfetch, hdecode]

theorem decodePacket_of_undefined {code : Byte}
    (h : code ∉ ([0xFF, 0x20, 0x01, 0x02, 0x03, 0x04, 0x05, 0x10] : List Byte)) (operand : List Byte) :
    decodePacket (code :: operand) = .error (.undefinedCode code) := by
  simp only [List.mem_cons, List.not_mem_nil, or_false, not_or] at h
  obtain ⟨hreset, hstat, hclr, hseed, hfold, hrd, hrdb, hdec⟩ := h
  simp only [decodePacket, hreset, hstat, hclr, hseed, hfold, hrd, hrdb, hdec, if_false]

/-- Settles O7: such a packet spells nothing and is refused (30_encoding.md R107). -/
theorem undefinedCodeIsRefused : Obligations.UndefinedCodeIsRefused := by
  intro s code operand rest hcode hport
  exact step_of_fetch_error (fetch_of_port hport) (decodePacket_of_undefined hcode operand)

end Sys2Proof.Machine

/-! ## The step and the fold of the accumulator

The step in one line is linear over XOR and loses nothing of the accumulator. The fold, the loop of 40_crc24_ops.md R131
and the document's loop without a width all run over the words of a buffer's pairs (`pairWords`), which carries a law of
the step to the fold. -/

namespace Sys2Proof.Machine

/-! ### The step -/

/-- What the bit shifted out brings back (40_crc24_ops.md R130). -/
def reduction (m : Bool) : Word24 := if m = true then Config.crcPoly else 0

theorem reduction_xor (m n : Bool) : reduction (m ^^ n) = reduction m ^^^ reduction n := by
  cases m <;> cases n <;> simp [reduction]

/-- R130 in one line: the shift loses bit 23, which alone decides the reduction, as a word has no bit 24. -/
theorem crc24Step_eq (c : Word24) (w : Word16) :
    crc24Step c w = (c <<< 1) ^^^ w.zeroExtend 24 ^^^ reduction (c.getLsbD 23) := by
  have hout : ((c.zeroExtend 25 <<< 1) ^^^ w.zeroExtend 25).getLsbD 24 = c.getLsbD 23 := by
    simp
  have hlow : ((c.zeroExtend 25 <<< 1) ^^^ w.zeroExtend 25).setWidth 24 = (c <<< 1) ^^^ w.zeroExtend 24 := by
    rw [BitVec.setWidth_xor, BitVec.setWidth_shiftLeft_of_le (by decide)]
    simp
  simp only [crc24Step, hout, reduction]
  split
  · rw [BitVec.setWidth_xor, hlow]; rfl
  · rw [hlow]; exact BitVec.xor_zero.symm

/-- The set bits of the polynomial (00_scope.md R10). -/
theorem getLsbD_crcPoly (k : Nat) : Config.crcPoly.getLsbD k = decide (k ∈ [0, 1, 3, 4, 23]) := by
  by_cases hk : k < 24
  · exact (by decide : ∀ i : Fin 24, Config.crcPoly.getLsbD i = decide (i.val ∈ [0, 1, 3, 4, 23])) ⟨k, hk⟩
  · rw [BitVec.getLsbD_of_ge _ _ (by omega)]
    simp; omega

/-- Each bit of the step: the bit below it, the word's bit, and the bit shifted out where the polynomial has one. -/
theorem getLsbD_crc24Step (c : Word24) (w : Word16) {k : Nat} (hk : k < 24) :
    (crc24Step c w).getLsbD k =
      ((!decide (k < 1) && c.getLsbD (k - 1)) ^^ w.getLsbD k ^^
        (c.getLsbD 23 && decide (k ∈ [0, 1, 3, 4, 23]))) := by
  have hred : (reduction (c.getLsbD 23)).getLsbD k = (c.getLsbD 23 && decide (k ∈ [0, 1, 3, 4, 23])) := by
    rw [← getLsbD_crcPoly]
    cases c.getLsbD 23 <;> simp [reduction]
  rw [crc24Step_eq, BitVec.getLsbD_xor, BitVec.getLsbD_xor, hred, BitVec.getLsbD_shiftLeft]
  simp [hk]

/-- Settles O11: the one line is `crc24Step_eq`, each bit is `getLsbD_crc24Step`. -/
theorem foldStepBitByBit : Obligations.FoldStepBitByBit := by
  intro c w
  have hmask : (c <<< 1) &&& (0xFFFFFF : Word24) = c <<< 1 := BitVec.and_allOnes
  have hhigh {k : Nat} (hk : 16 ≤ k) : w.getLsbD k = false := BitVec.getLsbD_of_ge w k hk
  refine ⟨by rw [hmask]; exact crc24Step_eq c w, ?_, ?_, ?_, ?_, ?_, ?_, ?_, ?_⟩
  · rw [getLsbD_crc24Step c w (by decide)]; simp
  · rw [getLsbD_crc24Step c w (by decide)]; simp
  · rw [getLsbD_crc24Step c w (by decide)]; simp
  · rw [getLsbD_crc24Step c w (by decide)]; simp
  · rw [getLsbD_crc24Step c w (by decide)]; simp
  · intro k h5 h15
    have hpoly : k ∉ [0, 1, 3, 4, 23] := by simp; omega
    rw [getLsbD_crc24Step c w (by omega)]
    simp [hpoly]; omega
  · intro k h16 h22
    have hpoly : k ∉ [0, 1, 3, 4, 23] := by simp; omega
    rw [getLsbD_crc24Step c w (by omega), hhigh h16]
    simp [hpoly]; omega
  · rw [getLsbD_crc24Step c w (by decide), hhigh (by decide)]; simp

/-- 40_crc24_ops.md R135 (e) for one step. -/
theorem crc24Step_xor (c d : Word24) (v w : Word16) :
    crc24Step (c ^^^ d) (v ^^^ w) = crc24Step c v ^^^ crc24Step d w := by
  simp only [crc24Step_eq, BitVec.getLsbD_xor, reduction_xor, BitVec.shiftLeft_xor_distrib, BitVec.truncate_eq_setWidth,
    BitVec.setWidth_xor]
  ac_rfl

/-- Bit 0 of the result is the bit shifted out, and the bits above it give back the others. -/
theorem eq_zero_of_crc24Step_eq_zero {c : Word24} (h : crc24Step c 0 = 0) : c = 0 := by
  have hbit {k : Nat} (hk : k < 24) := (getLsbD_crc24Step c 0 hk).symm.trans (congrArg (·.getLsbD k) h)
  have htop : c.getLsbD 23 = false := by simpa using hbit (k := 0) (by decide)
  refine BitVec.eq_of_getLsbD_eq fun k hk => ?_
  obtain rfl | hlt := Nat.eq_or_lt_of_le (Nat.le_of_lt_succ hk)
  · simpa using htop
  · have hnext := hbit (k := k + 1) (by omega)
    rw [htop] at hnext
    simpa using hnext

/-- 40_crc24_ops.md R135 (h) for the step: by linearity only the difference of two accumulators matters. -/
theorem crc24Step_injective (w : Word16) : Function.Injective fun c : Word24 => crc24Step c w := by
  intro c d h
  have hdiff : crc24Step (c ^^^ d) (w ^^^ w) = 0 := (crc24Step_xor c d w w).trans (BitVec.xor_eq_zero_iff.mpr h)
  rw [BitVec.xor_self] at hdiff
  exact BitVec.xor_eq_zero_iff.mp (eq_zero_of_crc24Step_eq_zero hdiff)

theorem crc24Step_bijective (w : Word16) : Function.Bijective fun c : Word24 => crc24Step c w :=
  Finite.injective_iff_bijective.mp (crc24Step_injective w)

/-- 40_crc24_ops.md R135 (g) for the step. -/
theorem crc24Step_of_lt {c : Word24} (h : c.toNat < 2 ^ 23) (w : Word16) :
    crc24Step c w = (2 * c) ^^^ w.zeroExtend 24 := by
  have htop : c.getLsbD 23 = false := by
    rw [← BitVec.testBit_toNat]
    exact Nat.testBit_lt_two_pow h
  have hdouble : c <<< 1 = 2 * c := by
    rw [BitVec.shiftLeft_eq_mul_twoPow, BitVec.mul_comm]; rfl
  rw [crc24Step_eq, htop, hdouble]
  exact BitVec.xor_zero

/-- 40_crc24_ops.md R132 for the step: the low 24 bits of the step without a width are the step of the low 24 bits. -/
theorem ofNat_literalStep (c : Nat) (w : Word16) :
    BitVec.ofNat 24 (Claims.literalStep c w) = crc24Step (BitVec.ofNat 24 c) w := by
  have hout : ((c <<< 1) ^^^ w.toNat).testBit 24 = (BitVec.ofNat 24 c).getLsbD 23 := by
    rw [BitVec.getLsbD_ofNat]
    simp [BitVec.testBit_toNat]
  have hlow : BitVec.ofNat 24 ((c <<< 1) ^^^ w.toNat) = (BitVec.ofNat 24 c <<< 1) ^^^ w.zeroExtend 24 := by
    rw [BitVec.ofNat_xor, BitVec.ofNat_toNat]
    congr 1
    apply BitVec.eq_of_toNat_eq
    simp only [BitVec.toNat_ofNat, BitVec.toNat_shiftLeft, Nat.shiftLeft_eq]
    omega
  rw [crc24Step_eq, Claims.literalStep, hout, reduction]
  split
  · rw [BitVec.ofNat_xor, hlow]; rfl
  · rw [hlow]; exact BitVec.xor_zero.symm

/-! ### The words of a buffer -/

/-- The words of the pairs of a buffer, in order, an odd one completed with a zero byte (40_crc24_ops.md R131). -/
def pairWords : Buffer → List Word16
  | [] => []
  | [lo] => [pairWord lo Config.crcOddFill]
  | lo :: hi :: rest => pairWord lo hi :: pairWords rest

theorem crc24_eq_foldl (c : Word24) (buf : Buffer) : crc24 c buf = (pairWords buf).foldl crc24Step c := by
  induction c, buf using crc24.induct with
  | case1 c => rfl
  | case2 c lo => rfl
  | case3 c lo hi rest ih => exact ih

/-- The byte that comes first is the low one (20_memory.md R65). -/
theorem pairWord_eq_ofNat (lo hi : Byte) : pairWord lo hi = BitVec.ofNat 16 (lo.toNat + 256 * hi.toNat) := by
  apply BitVec.eq_of_toNat_eq
  rw [pairWord, toNat_append_bits, BitVec.toNat_ofNat]
  omega

theorem loopWord_succ (lo hi : Byte) (rest : Buffer) (k : Nat) :
    Claims.loopWord (lo :: hi :: rest) (k + 1) = Claims.loopWord rest k := by
  simp [Claims.loopWord, Nat.mul_add, Nat.add_one_le_iff]

/-- The words the loops of R131 and R132 take are those of the pairs. -/
theorem map_loopWord_range (buf : Buffer) :
    (List.range ((buf.length + 1) / 2)).map (Claims.loopWord buf) = pairWords buf := by
  induction buf using pairWords.induct with
  | case1 => rfl
  | case2 lo => simp [pairWords, pairWord_eq_ofNat, Claims.loopWord, Config.crcOddFill]
  | case3 lo hi rest ih =>
    have hlen : ((lo :: hi :: rest).length + 1) / 2 = (rest.length + 1) / 2 + 1 := by
      simp only [List.length_cons]; omega
    have hfirst : Claims.loopWord (lo :: hi :: rest) 0 = pairWord lo hi := by
      simp [Claims.loopWord, pairWord_eq_ofNat]
    rw [hlen, List.range_succ_eq_map, List.map_cons, hfirst, List.map_map]
    simpa [Function.comp_def, loopWord_succ, pairWords] using ih

theorem foldLoop_eq_crc24 (c : Word24) (buf : Buffer) : Claims.foldLoop c buf = crc24 c buf := by
  rw [crc24_eq_foldl, ← map_loopWord_range, List.foldl_map]; rfl

theorem literalFold_eq_foldl (c : Nat) (buf : Buffer) :
    Claims.literalFold c buf = (pairWords buf).foldl Claims.literalStep c := by
  rw [← map_loopWord_range, List.foldl_map]; rfl

/-- Settles O12: reducing modulo 2^24 commutes with each step (`ofNat_literalStep`), so with the fold. -/
theorem literalAlgorithmAgrees : Obligations.LiteralAlgorithmAgrees := by
  intro seed buf
  have hhom := List.foldl_hom (BitVec.ofNat 24) (l := pairWords buf) (init := seed.toNat)
    fun c w => (ofNat_literalStep c w).symm
  rw [literalFold_eq_foldl, crc24_eq_foldl, ← BitVec.toNat_ofNat, ← hhom, BitVec.ofNat_toNat, BitVec.setWidth_eq]

/-! ### Consecutive buffers -/

theorem pairWords_append {a : Buffer} (h : a.length % 2 = 0) (b : Buffer) :
    pairWords (a ++ b) = pairWords a ++ pairWords b := by
  induction a using pairWords.induct with
  | case1 => rfl
  | case2 lo => cases h
  | case3 lo hi rest ih =>
    have hrest : rest.length % 2 = 0 := by rw [List.length_cons, List.length_cons] at h; omega
    exact congrArg (pairWord lo hi :: ·) (ih hrest)

theorem pairWords_append_zero {a : Buffer} (h : a.length % 2 = 1) : pairWords (a ++ [0x00]) = pairWords a := by
  induction a using pairWords.induct with
  | case1 => cases h
  | case2 lo => rfl
  | case3 lo hi rest ih =>
    have hrest : rest.length % 2 = 1 := by rw [List.length_cons, List.length_cons] at h; omega
    exact congrArg (pairWord lo hi :: ·) (ih hrest)

theorem crc24_append (s : Word24) {a : Buffer} (h : a.length % 2 = 0) (b : Buffer) :
    crc24 s (a ++ b) = crc24 (crc24 s a) b := by
  simp only [crc24_eq_foldl, pairWords_append h, List.foldl_append]

theorem crc24_append_zero (s : Word24) {a : Buffer} (h : a.length % 2 = 1) : crc24 s (a ++ [0x00]) = crc24 s a := by
  rw [crc24_eq_foldl, pairWords_append_zero h, crc24_eq_foldl]

/-- Settles O13: an odd buffer is one of even length once its zero byte is written out. -/
theorem foldChunking : Obligations.FoldChunking := by
  refine ⟨fun _ => rfl, fun s a b h => (crc24_append s h b).symm, fun s a b h => ?_,
    fun s a h => (crc24_append_zero s h).symm⟩
  have heven : (a ++ [0x00]).length % 2 = 0 := by simp; omega
  rw [crc24_append s heven, crc24_append_zero s h]

/-! ### Linearity -/

/-- A pair of the XOR of two buffers is the XOR of their pairs. -/
theorem crc24Step_pairWord_xor (s t : Word24) (lo hi lo' hi' : Byte) :
    crc24Step (s ^^^ t) (pairWord (lo ^^^ lo') (hi ^^^ hi')) =
      crc24Step s (pairWord lo hi) ^^^ crc24Step t (pairWord lo' hi') := by
  rw [← crc24Step_xor]
  exact congrArg (crc24Step (s ^^^ t)) BitVec.xor_append.symm

theorem crc24_xor (s t : Word24) {a b : Buffer} (h : a.length = b.length) :
    crc24 (s ^^^ t) (Claims.xorBytes a b) = crc24 s a ^^^ crc24 t b := by
  induction s, a using crc24.induct generalizing t b with
  | case1 s =>
    match b, h with
    | [], _ => rfl
  | case2 s lo =>
    match b, h with
    | [lo'], _ => exact crc24Step_pairWord_xor s t lo 0 lo' 0
  | case3 s lo hi rest ih =>
    match b, h with
    | lo' :: hi' :: rest', h =>
      have hrest := ih (crc24Step t (pairWord lo' hi')) (b := rest') (by simpa using h)
      rwa [← crc24Step_pairWord_xor] at hrest

theorem xorBytes_zeros (a : Buffer) : Claims.xorBytes (List.replicate a.length 0) a = a := by
  induction a with
  | nil => rfl
  | cons x xs ih => exact congrArg₂ List.cons BitVec.zero_xor ih

/-- Settles O14: the seed is itself XOR 0, the data are zeros XOR themselves, and zeros are their own XOR. -/
theorem foldIsLinear : Obligations.FoldIsLinear := by
  refine ⟨fun s t a b h => crc24_xor s t h, fun s a => ?_, fun n => ?_⟩
  · have h := crc24_xor s 0 (a := List.replicate a.length 0) (b := a) (by simp)
    rwa [xorBytes_zeros, show s ^^^ (0 : Word24) = s from BitVec.xor_zero] at h
  · have h := crc24_xor 0 0 (a := List.replicate n 0) (b := List.replicate n 0) rfl
    rw [BitVec.xor_self] at h
    simpa [Claims.xorBytes] using h

/-! ### The seed -/

theorem foldl_crc24Step_bijective (ws : List Word16) : Function.Bijective fun c : Word24 => ws.foldl crc24Step c := by
  induction ws with
  | nil => exact Function.bijective_id
  | cons w ws ih => exact ih.comp (crc24Step_bijective w)

/-- Settles O15: a pair is one step, and the fold is a composition of steps. -/
theorem foldLosesNoSeed : Obligations.FoldLosesNoSeed := by
  refine ⟨fun s x y h => ?_, crc24Step_bijective, fun buf => ?_⟩
  · have hword : (pairWord x y).zeroExtend 24 = BitVec.ofNat 24 (x.toNat + 256 * y.toNat) := by
      apply BitVec.eq_of_toNat_eq
      simp only [pairWord, BitVec.truncate_eq_setWidth, BitVec.toNat_setWidth, toNat_append_bits, BitVec.toNat_ofNat]
      omega
    rw [← hword]
    exact crc24Step_of_lt h _
  · simpa only [crc24_eq_foldl] using foldl_crc24Step_bijective (pairWords buf)

end Sys2Proof.Machine

/-! ## The operations of the CRC unit

Each is one guarded exchange (40_crc24_ops.md R136 to R140): refused on a Faulted block, else the effect of its meaning
and its answer. -/

namespace Sys2Proof.Machine

open Claims (said)

/-- The two ways of a guarded operation. -/
theorem exec_guarded {i : Instr} {op : Block → Block × Response} (hop : operationOf i = some (Block.guarded op))
    (s : State) :
    (s.block.err.kind = .clear → exec i s = .next { s with
      block := (op s.block).1, traffic := s.traffic ++ [said i (op s.block).2] }) ∧
    (s.block.err.kind ≠ .clear → exec i s = .next { s with traffic := s.traffic ++ [said i .refused] }) := by
  rw [ne_eq, ← Block.faulted_eq_false_iff, exec_of_operation hop, State.issue]
  constructor
  · intro h
    rw [Block.guarded_of_clear op h]
  · intro h
    rw [Block.guarded_of_faulted op (by simpa using h)]

/-- The three bytes as quotients, most significant first (20_memory.md R67). -/
theorem crcBytes_eq_div (c : Word24) :
    crcBytes c = [BitVec.ofNat 8 (c.toNat / 65536), BitVec.ofNat 8 (c.toNat / 256), BitVec.ofNat 8 c.toNat] := by
  simp [crcBytes, BitVec.extractLsb', Nat.shiftRight_eq_div_pow]

/-- Settles O18: CRC.FOLD folds, and the fold is the loop (`foldLoop_eq_crc24`). -/
theorem crcFoldRunsTheLoop : Obligations.CrcFoldRunsTheLoop := by
  refine fun buf => ⟨rfl, fun s => ?_⟩
  rw [foldLoop_eq_crc24]
  exact exec_guarded (i := .crcFold buf) rfl s

/-- Settles O16: the accumulator's first value is zero. -/
theorem crcClrSetsZero : Obligations.CrcClrSetsZero := ⟨rfl, exec_guarded (i := .crcClr) rfl⟩

/-- Settles O17: the operand's bytes are those of `crcBytes`. -/
theorem crcSeedSetsTheOperand : Obligations.CrcSeedSetsTheOperand := fun v =>
  ⟨congrArg (fun bs => Encoded.packet (0x02 :: bs)) (crcBytes_eq_div v), exec_guarded (i := .crcSeed v) rfl⟩

/-- Settles O19: the block is answered from and kept. -/
theorem crcRdAnswersTheAccumulator : Obligations.CrcRdAnswersTheAccumulator :=
  ⟨rfl, exec_guarded (i := .crcRd) rfl⟩

/-- Settles O20: the answer is `crcBytes`. -/
theorem crcRdbAnswersBigEndianBytes : Obligations.CrcRdbAnswersBigEndianBytes := by
  refine ⟨rfl, fun s => ?_⟩
  rw [← crcBytes_eq_div]
  exact exec_guarded (i := .crcRdb) rfl s

end Sys2Proof.Machine

/-! ## The checksum law

The decoder's sums at 8 bits are the sums of 41_record_decoder.md R162 and R163 as numbers, reduced. -/

namespace Sys2Proof

/-! ### The parts of the sum -/

theorem sum_bytes_eq_ofNat (bs : List Byte) : bs.sum = BitVec.ofNat 8 (bs.map BitVec.toNat).sum := by
  induction bs with
  | nil => rfl
  | cons b bs ih => simp [ih, BitVec.ofNat_add]

theorem RecordType.code_eq_ofNat (t : RecordType) : t.code = BitVec.ofNat 8 (Claims.typeCode t) := by
  cases t <;> rfl

theorem addressHi_eq_ofNat (a : Word16) : addressHi a = BitVec.ofNat 8 (a.toNat / 256) := by
  simp [addressHi, BitVec.extractLsb', Nat.shiftRight_eq_div_pow]

theorem addressLo_eq_ofNat (a : Word16) : addressLo a = BitVec.ofNat 8 (a.toNat % 256) := by
  apply BitVec.eq_of_toNat_eq
  simp [addressLo]

end Sys2Proof

namespace Sys2Proof.Machine

open Claims (otherSum Valid rightChecksum)

/-! ### The sums -/

theorem headSum_eq_ofNat (t : RecordType) (r : RecordFields) :
    headSum t r = BitVec.ofNat 8 (otherSum (r.toRecord t)) := by
  simp [headSum, otherSum, RecordFields.toRecord, sum_bytes_eq_ofNat, RecordType.code_eq_ofNat, addressHi_eq_ofNat,
    addressLo_eq_ofNat, BitVec.ofNat_add]

theorem recordSum_eq_zero_iff_valid (t : RecordType) (r : RecordFields) :
    recordSum t r = 0 ↔ Valid (r.toRecord t) := by
  have hsum : recordSum t r = BitVec.ofNat 8 (otherSum (r.toRecord t) + r.checksum.toNat) := by
    simp [recordSum, headSum_eq_ofNat, BitVec.ofNat_add]
  rw [hsum, ← BitVec.toNat_inj, BitVec.toNat_ofNat]
  rfl

/-- The decoder's `(ck - s) mod 256` does not read the byte found. -/
theorem expectedChecksum_eq_neg (t : RecordType) (r : RecordFields) : expectedChecksum t r = -headSum t r := by
  unfold expectedChecksum recordSum
  ring

theorem expectedChecksum_eq_rightChecksum (t : RecordType) (r : RecordFields) :
    expectedChecksum t r = rightChecksum (r.toRecord t) := by
  rw [expectedChecksum_eq_neg, headSum_eq_ofNat]
  apply BitVec.eq_of_toNat_eq
  simp [rightChecksum, BitVec.toNat_neg]

theorem recordSum_with_checksum (t : RecordType) (r : RecordFields) (ck : Byte) :
    recordSum t { r with checksum := ck } = headSum t r + ck := rfl

/-- Settles O22: the right byte is the negated sum of the others. -/
theorem expectedChecksumIsTheRightOne : Obligations.ExpectedChecksumIsTheRightOne := by
  intro t r
  refine ⟨recordSum_eq_zero_iff_valid t r, expectedChecksum_eq_rightChecksum t r, ?_, expectedChecksum_ne, ?_⟩
  · rw [recordSum_with_checksum, expectedChecksum_eq_neg]
    exact add_neg_cancel _
  · intro hne hzero
    exact hne (by rw [expectedChecksum, hzero, sub_zero])

end Sys2Proof.Machine

/-! ## What a line must be to spell a record

A line is malformed (60_exceptions.md R251) exactly when the decoder finds no record in it; the record it finds is the
one whose fields stand at the offsets of 30_encoding.md R91. -/

namespace Sys2Proof

open Claims (badAt Malformed Spells)

/-! ### Bytes at consecutive offsets -/

/-- A byte is read where both of its characters are digits (30_encoding.md R94). -/
theorem exists_hex2_iff (cs : Line) (o : Nat) : (∃ b, hex2 cs o = some b) ↔ ¬ badAt cs o ∧ ¬ badAt cs (o + 1) := by
  simp only [badAt, ← Option.ne_none_iff_exists']
  unfold hex2
  cases lineChar cs o with
  | none => simp
  | some h =>
    cases lineChar cs (o + 1) with
    | none => simp
    | some l => cases hh : hexVal h <;> cases hl : hexVal l <;> simp [hexPair, hh, hl]

/-- `n` bytes can be read from `o` when no character of the `2 * n` that hold them is bad. -/
theorem exists_hex2_forall_iff (cs : Line) (o n : Nat) :
    (∀ k < n, ∃ b, hex2 cs (o + 2 * k) = some b) ↔ ∀ i, o ≤ i → i < o + 2 * n → ¬ badAt cs i := by
  simp only [exists_hex2_iff]
  constructor
  · intro h i hlo hhi
    obtain ⟨heven, hodd⟩ := h ((i - o) / 2) (by omega)
    obtain hi | hi : i = o + 2 * ((i - o) / 2) ∨ i = o + 2 * ((i - o) / 2) + 1 := by omega
    · rwa [hi]
    · rwa [hi]
  · intro h k hk
    exact ⟨h _ (by omega) (by omega), h _ (by omega) (by omega)⟩

theorem hexRun_succ_drop_eq_some_iff (n : Nat) (cs : Line) (o : Nat) (b : Byte) (bs : List Byte) :
    hexRun (n + 1) (cs.drop o) = some (b :: bs) ↔ hex2 cs o = some b ∧ hexRun n (cs.drop (o + 2)) = some bs := by
  have hshift : hex2 cs o = hex2 (cs.drop o) 0 := by simp [hex2, lineChar]
  rw [hshift, ← List.drop_drop]
  match cs.drop o with
  | [] => simp [hexRun, hex2, lineChar]
  | [_] => simp [hexRun, hex2, lineChar]
  | h :: l :: rest => exact hexRun_succ_eq_some_iff n h l rest b bs

/-- A run of `n` bytes from `o` reads the bytes at `o`, `o + 2`, … (30_encoding.md R91, R96). -/
theorem hexRun_drop_eq_some_iff (n : Nat) (cs : Line) (o : Nat) (bs : List Byte) :
    hexRun n (cs.drop o) = some bs ↔ bs.length = n ∧ ∀ k < n, bs[k]? = hex2 cs (o + 2 * k) := by
  induction n generalizing o bs with
  | zero => cases bs <;> simp [hexRun]
  | succ n ih =>
    cases bs with
    | nil => exact iff_of_false (fun h => by simpa using length_of_hexRun h) (by simp)
    | cons b bs =>
      have hnext (k : Nat) : o + 2 * (k + 1) = o + 2 + 2 * k := by omega
      rw [hexRun_succ_drop_eq_some_iff, ih, Nat.forall_lt_succ_left]
      simp only [hnext, List.length_cons, Nat.add_right_cancel_iff, List.getElem?_cons_zero, List.getElem?_cons_succ,
        Nat.mul_zero, Nat.add_zero, eq_comm (a := some b)]
      exact and_left_comm

/-- A run decodes when each of its bytes does. -/
theorem exists_hexRun {n : Nat} {cs : Line} {o : Nat} (h : ∀ k < n, ∃ b, hex2 cs (o + 2 * k) = some b) :
    ∃ bs, hexRun n (cs.drop o) = some bs := by
  choose f hf using h
  refine ⟨List.ofFn fun k : Fin n => f k k.isLt, (hexRun_drop_eq_some_iff _ _ _ _).mpr ⟨by simp, fun k hk => ?_⟩⟩
  simp [hk, hf]

/-! ### The record of a line -/

/-- The legal types are 0x00 to 0x05 (30_encoding.md R99, R101). -/
theorem RecordType.exists_code_iff (c : Byte) : (∃ t : RecordType, c = t.code) ↔ ¬ 0x05 < c := by
  constructor
  · rintro ⟨t, rfl⟩
    cases t <;> decide
  · intro h
    cases ht : ofCode c with
    | some t => exact ⟨t, (ofCode_eq_some_iff c t).mp ht⟩
    | none =>
      unfold ofCode at ht
      split_ifs at ht
      bv_omega

/-- The decoder finds a record in every line that meets none of the six conditions. -/
theorem exists_parseRecord_of_not_malformed {cs : Line} (h : ¬ Malformed cs) :
    ∃ t r, parseRecord Config.lineParams cs = .ok (t, r) := by
  simp only [Malformed, not_or, not_exists, not_and, not_not] at h
  obtain ⟨-, hstart, hhead, hlen, hbody, htype⟩ := h
  have header (k : Nat) (hk : k < 4) : ∃ b, hex2 cs (1 + 2 * k) = some b :=
    (exists_hex2_forall_iff cs 1 4).mpr (fun i hlo hhi => hhead i hlo (by omega)) k hk
  obtain ⟨n, hn⟩ := header 0 (by decide)
  obtain ⟨hi, hhi⟩ := header 1 (by decide)
  obtain ⟨lo, hlo⟩ := header 2 (by decide)
  obtain ⟨c, hc⟩ := header 3 (by decide)
  obtain ⟨t, rfl⟩ := (RecordType.exists_code_iff c).mpr (htype c hc)
  have body : ∀ k < n.toNat + 1, ∃ b, hex2 cs (9 + 2 * k) = some b :=
    (exists_hex2_forall_iff cs 9 _).mpr fun i hlo hhi => hbody n i hn hlo (by omega)
  obtain ⟨payload, hpayload⟩ := exists_hexRun fun k hk => body k (Nat.lt_succ_of_lt hk)
  obtain ⟨ck, hck⟩ := body n.toNat (Nat.lt_succ_self _)
  exact ⟨t, ⟨n, hi ++ lo, payload, ck⟩, (parseRecord_eq_ok_iff _ _ _).mpr
    ⟨hlen n hn, hstart, hn, hex4_of_bytes hhi hlo, hc, hpayload, hck⟩⟩

/-- A line in which the decoder finds a record meets none of the six conditions. -/
theorem not_malformed_of_parseRecord {cs : Line} {t : RecordType} {r : RecordFields}
    (h : parseRecord Config.lineParams cs = .ok (t, r)) : ¬ Malformed cs := by
  obtain ⟨hlen, hstart, hn, ha, hc, hrun, hck⟩ := (parseRecord_eq_ok_iff _ _ _).mp h
  obtain ⟨hhi, hlo⟩ := (hex4_eq_some_iff _ _ _).mp ha
  obtain ⟨hcount, hpayload⟩ := (hexRun_drop_eq_some_iff _ _ _ _).mp hrun
  have header : ∀ k < 4, ∃ b, hex2 cs (1 + 2 * k) = some b := by
    intro k hk
    interval_cases k
    exacts [⟨_, hn⟩, ⟨_, hhi⟩, ⟨_, hlo⟩, ⟨_, hc⟩]
  have body : ∀ k < r.byteCount.toNat + 1, ∃ b, hex2 cs (9 + 2 * k) = some b := by
    intro k hk
    obtain hk | rfl := Nat.lt_succ_iff_lt_or_eq.mp hk
    · exact ⟨_, (hpayload k hk).symm.trans (List.getElem?_eq_getElem (hcount ▸ hk))⟩
    · exact ⟨_, hck⟩
  rw [exists_hex2_forall_iff] at header body
  have hcode := (RecordType.exists_code_iff t.code).mp ⟨t, rfl⟩
  rintro (hshort | hcolon | ⟨o, hlo, hhi, hbad⟩ | ⟨n, hn', hne⟩ | ⟨n, o, hn', hlo, hhi, hbad⟩ | ⟨c, hc', hbig⟩)
  · omega
  · exact hcolon hstart
  · exact header o hlo (by omega) hbad
  · cases hn.symm.trans hn'
    exact hne hlen
  · cases hn.symm.trans hn'
    exact body o hlo (by omega) hbad
  · cases hc.symm.trans hc'
    exact hcode hbig

/-- The record the decoder finds is the one the line spells by position. -/
theorem spells_of_parseRecord {cs : Line} {t : RecordType} {r : RecordFields}
    (h : parseRecord Config.lineParams cs = .ok (t, r)) : Spells cs (r.toRecord t) := by
  obtain ⟨-, -, hn, ha, hc, hrun, hck⟩ := (parseRecord_eq_ok_iff _ _ _).mp h
  obtain ⟨hcount, hpayload⟩ := (hexRun_drop_eq_some_iff _ _ _ _).mp hrun
  have htype : (hex2 cs 7).map BitVec.toNat = some (Claims.typeCode t) := by
    rw [hc]
    cases t <;> rfl
  exact ⟨hn, ha, htype, hcount, hpayload, hck⟩

end Sys2Proof

/-! ## The operations of the record decode unit and of the whole block

REC.DEC, BLK.RESET and BLK.STAT (41_record_decoder.md R160 to R164, R173, R174). -/

namespace Sys2Proof.Machine

open Claims (Malformed Valid rightChecksum)

/-! ### What REC.DEC does to the block -/

/-- A Faulted block is kept. -/
theorem Block.decodeLine_of_faulted {b : Block} (h : b.err.kind ≠ .clear) (cs : Line) :
    Block.decodeLine cs b = (b, .refused) := by
  rw [Block.decodeLine, Block.decodeLineWith]
  exact Block.guarded_of_faulted _ (by simpa [← Block.faulted_eq_false_iff] using h)

/-- A line in which no record is found. -/
theorem Block.decodeLine_of_parse_error {b : Block} (hclear : b.err.kind = .clear) {cs : Line} {e : DecodeError}
    (h : parseRecord Config.lineParams cs = .error e) : Block.decodeLine cs b = b.raise (.malformedRecord cs) := by
  simp only [Block.decodeLine, Block.decodeLineWith, h]
  exact Block.guarded_of_clear _ (b.faulted_eq_false_iff.mpr hclear)

/-- A line in which a record is found is held to the checksum law. -/
theorem Block.decodeLine_of_parse {b : Block} (hclear : b.err.kind = .clear) {cs : Line} {t : RecordType}
    {r : RecordFields} (h : parseRecord Config.lineParams cs = .ok (t, r)) :
    Block.decodeLine cs b = b.checkRecord t r :=
  (Block.decodeLineWith_of_parse h b).trans (Block.guarded_of_clear _ (b.faulted_eq_false_iff.mpr hclear))

theorem Block.decodeLine_of_malformed {b : Block} (hclear : b.err.kind = .clear) {cs : Line} (h : Malformed cs) :
    Block.decodeLine cs b = b.raise (.malformedRecord cs) := by
  cases hparse : parseRecord Config.lineParams cs with
  | error e => exact Block.decodeLine_of_parse_error hclear hparse
  | ok tr => exact absurd h (not_malformed_of_parseRecord hparse)

theorem Block.checkRecord_of_valid {t : RecordType} {r : RecordFields} (h : Valid (r.toRecord t)) (b : Block) :
    b.checkRecord t r = (b, .record (r.toRecord t)) :=
  if_pos ((recordSum_eq_zero_iff_valid t r).mpr h)

theorem Block.checkRecord_of_not_valid {t : RecordType} {r : RecordFields} (h : ¬ Valid (r.toRecord t)) (b : Block) :
    b.checkRecord t r = b.raise (.checksumMismatch (r.toRecord t) (rightChecksum (r.toRecord t)) r.checksum) := by
  rw [← expectedChecksum_eq_rightChecksum]
  exact if_neg (mt (recordSum_eq_zero_iff_valid t r).mp h)

/-- Settles O21: the line is malformed or the decoder finds the record it spells, and the record's sum is the law's. -/
theorem recDecDecodesAndValidates : Obligations.RecDecDecodesAndValidates := by
  intro s cs
  rw [exec_of_operation (i := .recDec cs) rfl, State.issue]
  refine ⟨fun hclear hmal => ?_, fun hclear hmal => ?_, fun hfaulted => ?_⟩
  · rw [Block.decodeLine_of_malformed hclear hmal]
    rfl
  · obtain ⟨t, r, hparse⟩ := exists_parseRecord_of_not_malformed hmal
    refine ⟨r.toRecord t, spells_of_parseRecord hparse, fun hvalid => ?_, fun hvalid => ?_⟩
    · rw [Block.decodeLine_of_parse hclear hparse, Block.checkRecord_of_valid hvalid]
    · rw [Block.decodeLine_of_parse hclear hparse, Block.checkRecord_of_not_valid hvalid]
      rfl
  · rw [Block.decodeLine_of_faulted hfaulted]

/-- REC.DEC goes from one value of `ERR` to another, with one response, whatever `CRC` holds, and keeps `CRC`. -/
theorem Block.decodeLine_reads_err (cs : Line) (err : ErrReg) :
    ∃ err' x, ∀ b : Block, b.err = err → Block.decodeLine cs b = ({ b with err := err' }, x) := by
  by_cases hclear : err.kind = .clear
  · cases hparse : parseRecord Config.lineParams cs with
    | error e =>
      exact ⟨_, _, fun b hb => Block.decodeLine_of_parse_error (hb ▸ hclear) hparse⟩
    | ok tr =>
      obtain ⟨t, r⟩ := tr
      by_cases hvalid : Valid (r.toRecord t)
      · refine ⟨err, .record (r.toRecord t), fun b hb => ?_⟩
        rw [Block.decodeLine_of_parse (hb ▸ hclear) hparse, Block.checkRecord_of_valid hvalid, ← hb]
      · exact ⟨_, _, fun b hb =>
          (Block.decodeLine_of_parse (hb ▸ hclear) hparse).trans (Block.checkRecord_of_not_valid hvalid b)⟩
  · refine ⟨err, .refused, fun b hb => ?_⟩
    rw [Block.decodeLine_of_faulted (hb ▸ hclear), ← hb]

/-- Settles O23: both blocks hold the same `ERR`. -/
theorem recDecReadsLineAndErrAlone : Obligations.RecDecReadsLineAndErrAlone := by
  intro s t cs herr
  obtain ⟨err', x, hop⟩ := Block.decodeLine_reads_err cs t.block.err
  have hs := hop s.block herr
  have ht := hop t.block rfl
  refine ⟨_, _, ⟨.operation (.recDec cs), x⟩, exec_of_operation rfl s, exec_of_operation rfl t, ?_⟩
  simp [hs, ht]

/-! ### BLK.RESET and BLK.STAT -/

/-- Settles O25: the block's answer to BLK.RESET does not read the block (70_reset_and_hazards.md R291). -/
theorem blkResetClearsTheBlockOnly : Obligations.BlkResetClearsTheBlockOnly :=
  ⟨rfl, exec_of_operation (i := .blkReset) rfl⟩

/-- Settles O26: the answer is the code of the kind held (10_state.md R36). -/
theorem blkStatReadsTheLatch : Obligations.BlkStatReadsTheLatch :=
  ⟨rfl, fun s => ⟨s.block.err.kind.code, exec_of_operation (i := .blkStat) rfl s,
    congrArg ErrKind.code, congrArg ErrKind.code, congrArg ErrKind.code, congrArg ErrKind.code⟩⟩

end Sys2Proof.Machine

/-! ## What every action of the host keeps

A property that each of the engine's operations keeps is kept by each of its actions, and so by a turn of the driver
loop (42_host_sequencer.md R202 to R221). Two are used: what a line leaves of the run around it (O8), and the agreement of
the two sinks (O57). -/

namespace Sys2Proof.Machine

/-! ### Following an action -/

/-- An action that goes on leads to a state of `P`, and one that ends the run on the way leaves a state of `Q`. -/
def EndsIn (P Q : State → Prop) : Except State State → Prop
  | .ok t => P t
  | .error t => Q t

@[simp] theorem endsIn_ok (P Q : State → Prop) (t : State) : EndsIn P Q (.ok t) ↔ P t := Iff.rfl

/-- What the engine is made of: the operations that keep `P`, and the two ends of a run, which lead from `P` to `Q`. -/
structure KeptByEngine (P Q : State → Prop) : Prop where
  issue   : ∀ s i op, P s → P (s.issue i op)
  emit    : ∀ s buf, P s → EndsIn P Q (emit buf s)
  start   : ∀ s base off, P s → P (startSegment base off s)
  advance : ∀ s r, P s → P (advance r s)
  finish  : ∀ s, P s → P (endRun (closeSegment s))
  abort   : ∀ s e, P s → Q (abort e s)
  refuse  : ∀ s why, P s → Q (hostRefuse why s)
  settled : ∀ s, P s → Q s

section

variable {P Q : State → Prop} {s : State}

theorem EndsIn.bind {x : Except State State} {f : State → Except State State} (hx : EndsIn P Q x)
    (hf : ∀ t, P t → EndsIn P Q (f t)) : EndsIn P Q (x.bind f) := by
  cases x with
  | ok t => exact hf t hx
  | error t => exact hx

variable (k : KeptByEngine P Q)
include k

theorem EndsIn.settle {x : Except State State} (hx : EndsIn P Q x) : Q (settle x) := by
  cases x with
  | ok t => exact k.settled t hx
  | error t => exact hx

theorem feed_endsIn (h : P s) (buf : List Byte) : EndsIn P Q (feed buf s) := by
  rw [feed_eq_bind]
  exact (k.emit s buf h).bind fun t ht => k.issue t _ _ ht

theorem feedPayload_endsIn (h : P s) (r : HexRecord) : EndsIn P Q (feedPayload r s) := by
  rw [feedPayload_eq_bind]
  exact (feed_endsIn k h r.payload).bind fun t ht => k.advance t r ht

theorem bridgeGap_endsIn (h : P s) (seg : Segment) (r : HexRecord) : EndsIn P Q (bridgeGap seg r s) := by
  unfold bridgeGap
  split_ifs
  · exact k.start s _ _ h
  · exact feed_endsIn k h _
  · exact h

theorem backwardRecord_endsIn (h : P s) (r : HexRecord) : EndsIn P Q (backwardRecord r s) := by
  unfold backwardRecord
  split
  · exact k.refuse s _ h
  · exact k.abort s _ h
  · exact feedPayload_endsIn k h r

theorem placeData_endsIn (h : P s) (r : HexRecord) : EndsIn P Q (placeData r s) := by
  cases hphase : s.host.phase with
  | segmentOpen seg bin =>
    rw [placeData_of_open hphase]
    split_ifs
    · exact backwardRecord_endsIn k h r
    · exact (bridgeGap_endsIn k h seg r).bind fun t ht => feedPayload_endsIn k ht r
  | noSegment => simpa [placeData, hphase] using h
  | closed => simpa [placeData, hphase] using h

theorem onData_endsIn (h : P s) (r : HexRecord) : EndsIn P Q (onData r s) := by
  unfold onData
  split
  · exact placeData_endsIn k (k.start s _ _ h) r
  · exact placeData_endsIn k h r
  · exact h

theorem onAddressRecord_endsIn (h : P s) (shift : Nat) (r : HexRecord) :
    EndsIn P Q (onAddressRecord shift r s) := by
  unfold onAddressRecord
  split
  · exact h
  all_goals
    split_ifs
    · exact k.start s _ _ h
    · exact k.abort s _ h

theorem feedRows_endsIn (row : List Byte) (n : Nat) (h : P s) : EndsIn P Q (feedRows row n s) := by
  induction n generalizing s with
  | zero => exact h
  | succ n ih =>
    rw [feedRows_succ]
    exact (feed_endsIn k h row).bind fun t ht => ih ht

theorem padRows_endsIn (n : Nat) (h : P s) : EndsIn P Q (padRows n s) := by
  rw [padRows_eq_bind]
  split
  · refine (feedRows_endsIn k _ _ h).bind fun t ht => ?_
    split_ifs
    · exact feed_endsIn k ht _
    · exact ht
  · exact feed_endsIn k h _

theorem appendCrc_endsIn (h : P s) : EndsIn P Q (appendCrc s) := k.emit _ _ (k.issue s _ _ h)

theorem finalize_endsIn (h : P s) : EndsIn P Q (finalize s) := by
  cases hphase : s.host.phase with
  | segmentOpen seg bin =>
    rw [finalize_of_open hphase]
    refine EndsIn.bind (P := P) ?_ fun t ht => ?_
    · split_ifs
      · exact padRows_endsIn k _ h
      · exact h
    · split_ifs
      · exact appendCrc_endsIn k ht
      · exact ht
  | noSegment => simpa [finalize, hphase] using h
  | closed => simpa [finalize, hphase] using h

theorem onEof_endsIn (h : P s) : EndsIn P Q (onEof s) := by
  cases hphase : s.host.phase with
  | closed => simpa [onEof, hphase] using h
  | noSegment => simpa [onEof, hphase, closeSegment] using k.finish s h
  | segmentOpen seg bin =>
    rw [onEof_of_open hphase]
    refine EndsIn.bind (P := P) ?_ fun t ht => k.finish t ht
    split_ifs
    · exact finalize_endsIn k h
    · exact h

theorem hostAction_endsIn (ty : RecordType) (r : HexRecord) (h : P s) : EndsIn P Q (hostAction ty r s) := by
  cases ty with
  | data => exact onData_endsIn k h r
  | endOfFile => exact onEof_endsIn k h
  | extendedSegmentAddress => exact onAddressRecord_endsIn k h _ r
  | extendedLinearAddress => exact onAddressRecord_endsIn k h _ r
  | startSegmentAddress => exact h
  | startLinearAddress => exact h

theorem driveLine_keeps {op : Block → Block × Response} {act : HexRecord → State → Except State State}
    (h : P (s.issue (.recDec s.host.line) op)) (hact : ∀ r t, P t → EndsIn P Q (act r t)) :
    Q (driveLine op act s) := by
  obtain ⟨r, -, heq⟩ | ⟨e, -, heq⟩ | heq := driveLine_cases op act s
  · exact heq ▸ (hact r _ h).settle k
  · exact heq ▸ k.abort _ e h
  · exact heq ▸ k.refuse _ _ h

end

/-! ### A line leaves the rest of its run as it is -/

/-- `x` is the first exchange of this step, and line, input and configuration are those of `h`. -/
structure UnderLine (x : Exchange) (h : HostState) (t : State) : Prop where
  first : t.traffic.head? = some x
  line  : t.host.line = h.line
  input : t.host.input = h.input
  cfg   : t.host.cfg = h.cfg

theorem UnderLine.issue {x : Exchange} {h : HostState} {s : State} (u : UnderLine x h s) (i : Instr)
    (op : Block → Block × Response) : UnderLine x h (s.issue i op) :=
  ⟨List.mem_head?_append_of_mem_head? u.first, u.line, u.input, u.cfg⟩

theorem UnderLine.closeSegment {x : Exchange} {h : HostState} {s : State} (u : UnderLine x h s) :
    UnderLine x h (closeSegment s) := by
  unfold Machine.closeSegment
  split
  · have hread := u.issue .crcRd Block.read
    exact ⟨hread.first, hread.line, hread.input, hread.cfg⟩
  · exact u
  · exact u

theorem keptByEngine_underLine (x : Exchange) (h : HostState) : KeptByEngine (UnderLine x h) (UnderLine x h) where
  issue _ i op u := u.issue i op
  emit s buf u := by
    unfold Machine.emit
    split
    · split
      · exact ⟨u.first, u.line, u.input, u.cfg⟩
      · exact ⟨u.first, u.line, u.input, u.cfg⟩
    · exact u
    · exact u
  start s base off u := by
    have hclear := u.closeSegment.issue .crcClr Block.clear
    exact ⟨hclear.first, hclear.line, hclear.input, hclear.cfg⟩
  advance s r u := by
    unfold Machine.advance
    split
    · exact ⟨u.first, u.line, u.input, u.cfg⟩
    · exact u
    · exact u
  finish _ u := ⟨u.closeSegment.first, u.closeSegment.line, u.closeSegment.input, u.closeSegment.cfg⟩
  abort _ _ u := ⟨u.first, u.line, u.input, u.cfg⟩
  refuse _ _ u := ⟨u.first, u.line, u.input, u.cfg⟩
  settled _ u := u

/-- The first exchange of a line is its REC.DEC. -/
theorem driveLine_underLine {op : Block → Block × Response} {act : HexRecord → State → Except State State} (s : State)
    (l : Line) (rest : List Line)
    (hact : ∀ x h r t, UnderLine x h t → EndsIn (UnderLine x h) (UnderLine x h) (act r t)) :
    UnderLine ⟨.operation (.recDec (strip l)), (op s.block).2⟩ { s.host with line := strip l, input := rest }
      (driveLine op act (s.atLine l rest)) :=
  driveLine_keeps (keptByEngine_underLine _ _) ⟨rfl, rfl, rfl, rfl⟩ (hact _ _)

/-- A line that decodes is answered as the record form it spells. -/
theorem decodeLine_eq_decodeRecord {line : Line} {ty : RecordType} {r : RecordFields}
    (h : decodeLine line = .ok (.ofRecord ty r)) (b : Block) : Block.decodeLine line b = Block.decodeRecord ty r b := by
  obtain ⟨ty', r', heq, hparse⟩ := (decodeLine_eq_ok_iff_parseRecord _ _).mp h
  have hsame : Block.decodeRecord ty r = Block.decodeRecord ty' r' := by
    cases ty <;> cases ty' <;> cases heq <;> rfl
  rw [hsame]
  exact Block.decodeLineWith_of_parse hparse b

/-- Settles O8: record or not, a line is one turn of the driver loop, whose actions keep `UnderLine`. -/
theorem everyLineGoesThroughRecDec : Obligations.EveryLineGoesThroughRecDec := by
  intro s l rest hline
  obtain ⟨hport, hlaunch, hrun, hinput⟩ := hline
  have hfetch := fetch_of_line hport hlaunch hrun hinput
  cases hdecode : decodeLine (strip l) with
  | ok i =>
    obtain ⟨ty, r, rfl⟩ := ofRecord_of_decodeLine hdecode
    have hunder := driveLine_underLine (op := Block.decodeRecord ty r) s l rest
      fun x h hr t => hostAction_endsIn (keptByEngine_underLine x h) ty hr
    rw [decodeLine_eq_decodeRecord hdecode]
    exact ⟨_, (step_of_fetch hfetch hdecode).trans (exec_ofRecord ty r _), hunder.first, hunder.line, hunder.input,
      hunder.cfg⟩
  | error e =>
    have hunder := driveLine_underLine (op := Block.decodeLine (strip l)) (act := fun _ => .ok) s l rest
      fun _ _ _ _ hu => hu
    exact ⟨_, step_of_fetch_error hfetch hdecode, hunder.first, hunder.line, hunder.input, hunder.cfg⟩

/-! ### The two sinks hold the same bytes -/

@[simp] theorem textBytes_append (xs ys : List TextItem) : textBytes (xs ++ ys) = textBytes xs ++ textBytes ys :=
  List.filterMap_append

/-- Indents and line breaks are no bytes (42_host_sequencer.md R220). -/
@[simp] theorem textBytes_textRow (align p : Nat) (buf : List Byte) : textBytes (textRow align p buf) = buf := by
  induction buf generalizing p with
  | nil => rfl
  | cons b bs ih =>
    have hindent : textBytes (if 0 < align ∧ p % align = 0 then [.indent] else []) = [] := by split <;> rfl
    have hbreak : textBytes (if 0 < align ∧ (p + 1) % align = 0 then [.lineBreak] else []) = [] := by split <;> rfl
    have hbyte : textBytes [.byte b] = [b] := rfl
    simp only [textRow, textBytes_append, hindent, hbreak, hbyte, ih, List.nil_append, List.append_nil,
      List.cons_append]

theorem binaryBytes_of_open {h : HostState} {seg : Segment} {bin : BinFile} (hphase : h.phase = .segmentOpen seg bin) :
    binaryBytes h = h.output.binaries.flatMap BinFile.bytes ++ bin.bytes := by
  simp [binaryBytes, HostState.allBinaries, hphase]

/-- The text file lists the bytes of the binary files. -/
def State.SinksEqual (s : State) : Prop := textBytes s.host.output.text = binaryBytes s.host

theorem State.SinksEqual.agree {s : State} (h : s.SinksEqual) : s.host.SinksAgree := fun _ => h

theorem HostState.SinksAgree.equal {s : State} (h : s.host.SinksAgree) (hrun : s.host.status = .running) :
    s.SinksEqual := h fun _ hstop => RunStatus.noConfusion (hrun.symm.trans hstop)

/-- The open file joins the closed ones, and a trailer is no byte (42_host_sequencer.md R217). -/
theorem closeSegment_sinksEqual {s : State} (h : s.SinksEqual) : (closeSegment s).SinksEqual := by
  cases hphase : s.host.phase with
  | segmentOpen seg bin =>
    have htext : textBytes s.host.output.text = _ := h.trans (binaryBytes_of_open hphase)
    have htrailer : textBytes [.trailer seg.size s.block.crc] = [] := rfl
    simp [closeSegment, hphase, State.SinksEqual, binaryBytes, HostState.allBinaries, htext, htrailer]
  | noSegment => simpa [closeSegment, hphase] using h
  | closed => simpa [closeSegment, hphase] using h

theorem closeSegment_phase_ne_open (s : State) (seg : Segment) (bin : BinFile) :
    (closeSegment s).host.phase ≠ .segmentOpen seg bin := by
  cases hphase : s.host.phase <;> simp [closeSegment, hphase]

/-- With no segment open, the files are the closed ones. -/
theorem HostState.allBinaries_of_not_open {h : HostState} (hphase : ∀ seg bin, h.phase ≠ .segmentOpen seg bin) :
    h.allBinaries = h.output.binaries := by
  unfold allBinaries
  split
  · next hopen => exact absurd hopen (hphase _ _)
  · rfl
  · rfl

theorem closeSegment_text_eq {s : State} (h : s.SinksEqual) :
    textBytes (closeSegment s).host.output.text = (closeSegment s).host.output.binaries.flatMap BinFile.bytes := by
  rw [← HostState.allBinaries_of_not_open (closeSegment_phase_ne_open s)]
  exact closeSegment_sinksEqual h

theorem keptByEngine_sinksEqual : KeptByEngine State.SinksEqual fun t => t.host.SinksAgree where
  issue _ _ _ h := h
  emit s buf h := by
    cases hphase : s.host.phase with
    | segmentOpen seg bin =>
      rw [emit_of_open hphase]
      split
      · have htext : textBytes s.host.output.text = _ := h.trans (binaryBytes_of_open hphase)
        simp [State.SinksEqual, binaryBytes, HostState.allBinaries, htext]
      · exact fun hstop => absurd rfl (hstop .sizeOverflow)
    | noSegment => simpa [Machine.emit, hphase] using h
    | closed => simpa [Machine.emit, hphase] using h
  start s base off h := by
    have hopening : textBytes [.arrayOpen base off] = [] := rfl
    simp [State.SinksEqual, startSegment, binaryBytes, HostState.allBinaries, closeSegment_text_eq h, hopening]
  advance s r h := by
    cases hphase : s.host.phase with
    | segmentOpen seg bin =>
      simpa [Machine.advance, hphase, State.SinksEqual, binaryBytes, HostState.allBinaries] using h
    | noSegment => simpa [Machine.advance, hphase] using h
    | closed => simpa [Machine.advance, hphase] using h
  finish s h := closeSegment_text_eq h
  abort _ _ h := fun _ => h
  refuse _ why _ := fun hstop => absurd rfl (hstop why)
  settled _ h := h.agree

theorem startRun_sinksAgree {s : State} (h : s.host.SinksAgree) (l : Launch) : (startRun l s).host.SinksAgree := by
  unfold startRun
  split
  · exact h
  · exact fun _ => rfl

theorem endOfInput_sinksAgree {s : State} (h : s.SinksEqual) : (endOfInput s).host.SinksAgree := by
  have k := keptByEngine_sinksEqual
  unfold endOfInput
  split
  · exact k.refuse s _ h
  · split_ifs
    · exact k.refuse s _ h
    · exact (onEof_endsIn k h).settle k

/-- Settles O57, by the cases of a step; while a run is on the sinks are equal, and the engine keeps that. -/
theorem everyStepKeepsTheSinksInAgreement : Obligations.EveryStepKeepsTheSinksInAgreement := by
  intro s t _ h hstep
  cases stepCase_of_step hstep with
  | operation _ _ _ => exact h
  | unknownPacket _ _ => exact h
  | start _ _ => exact startRun_sinksAgree (s := { s.cleared with launch := none }) h _
  | record _ _ hrun _ _ =>
    have hequal : s.SinksEqual := h.equal hrun
    exact driveLine_keeps keptByEngine_sinksEqual hequal fun r _ => hostAction_endsIn keptByEngine_sinksEqual _ r
  | badLine _ _ hrun _ _ =>
    have hequal : s.SinksEqual := h.equal hrun
    exact driveLine_keeps keptByEngine_sinksEqual hequal fun _ _ ht => ht
  | endOfInput _ _ hrun _ => exact endOfInput_sinksAgree (s := s.cleared) (h.equal hrun)
  | idle _ _ _ => exact h

end Sys2Proof.Machine

/-! ## The turn of a record

A record form on a block that is not Faulted is its REC.DEC and then the host's action for the record, or an abort when
its checksum is wrong (42_host_sequencer.md R202, R223). -/

namespace Sys2Proof.Machine

open Claims (said Valid rightChecksum afterAbort)

/-- `s` when REC.DEC has answered its line with the record `hr`. -/
def State.heard (s : State) (hr : HexRecord) : State :=
  { s with traffic := s.traffic ++ [said (.recDec s.host.line) (.record hr)] }

@[simp] theorem State.heard_host (s : State) (hr : HexRecord) : (s.heard hr).host = s.host := rfl

theorem Block.decodeRecord_of_clear {b : Block} (hclear : b.err.kind = .clear) (ty : RecordType) (r : RecordFields) :
    Block.decodeRecord ty r b = b.checkRecord ty r :=
  Block.guarded_of_clear _ (b.faulted_eq_false_iff.mpr hclear)

/-- A valid record leaves the block as it is, and the host acts on it. -/
theorem exec_of_valid {ty : RecordType} {s : State} {r : RecordFields} (hclear : s.block.err.kind = .clear)
    (hvalid : Valid (r.toRecord ty)) :
    exec (.ofRecord ty r) s = .next (settle (hostAction ty (r.toRecord ty) (s.heard (r.toRecord ty)))) := by
  have hop : Block.decodeRecord ty r s.block = (s.block, .record (r.toRecord ty)) :=
    (Block.decodeRecord_of_clear hclear ty r).trans (Block.checkRecord_of_valid hvalid s.block)
  rw [exec_ofRecord, driveLine_of_record (congrArg Prod.snd hop), State.issue, hop]
  rfl

theorem exec_of_action {ty : RecordType} {s : State} {r : RecordFields} {x : Except State State}
    (hclear : s.block.err.kind = .clear) (hvalid : Valid (r.toRecord ty))
    (haction : hostAction ty (r.toRecord ty) (s.heard (r.toRecord ty)) = x) :
    exec (.ofRecord ty r) s = .next (settle x) :=
  haction ▸ exec_of_valid hclear hvalid

/-- The file that was open is the last of the run's files. -/
theorem abort_eq_afterAbort (s : State) (e : ErrorValue) (x : Exchange) :
    abort e { s with traffic := s.traffic ++ [x] } = afterAbort s e x := by
  cases h : s.host.phase <;> simp [abort, afterAbort, HostState.allBinaries, h]

/-- Settles O48: the record raises ChecksumMismatch, which aborts. -/
theorem wrongChecksumAbortsTheRun : Obligations.WrongChecksumAbortsTheRun := by
  intro ty s r hclear hvalid
  have hop : Block.decodeRecord ty r s.block = s.block.raise _ :=
    (Block.decodeRecord_of_clear hclear ty r).trans (Block.checkRecord_of_not_valid hvalid s.block)
  rw [exec_ofRecord, driveLine_of_raised (congrArg Prod.snd hop), State.issue, hop, ← abort_eq_afterAbort]
  rfl

/-! ### Records without an action -/

/-- Settles O42: the host does nothing with the two start addresses. -/
theorem startAddressRecordsDoNothing : Obligations.StartAddressRecordsDoNothing := fun _ r hclear =>
  ⟨exec_of_valid (ty := .startSegmentAddress) (r := r) hclear,
    exec_of_valid (ty := .startLinearAddress) (r := r) hclear⟩

theorem hostAction_of_closed {s : State} (h : s.host.phase = .closed) (ty : RecordType) (hr : HexRecord) :
    hostAction ty hr s = .ok s := by
  cases ty with
  | data => simp [hostAction, onData, h]
  | endOfFile => simp [hostAction, onEof, h]
  | extendedSegmentAddress => simp [hostAction, onEsa, onAddressRecord, h]
  | extendedLinearAddress => simp [hostAction, onEla, onAddressRecord, h]
  | startSegmentAddress => rfl
  | startLinearAddress => rfl

/-- Settles O43: Closed is terminal for every action. -/
theorem recordsAfterTheEndDoNothing : Obligations.RecordsAfterTheEndDoNothing := by
  intro ty s r hclear hvalid hphase
  rw [exec_of_valid hclear hvalid, hostAction_of_closed (s := s.heard _) hphase]
  rfl

end Sys2Proof.Machine

/-! ## Address records

Each opens a segment at a base made of its two bytes, or is the host's MalformedRecord (42_host_sequencer.md R206, R208,
R209, R228). -/

namespace Sys2Proof.Machine

open Claims (said Valid afterOpen afterAbort)

/-! ### Operations of a block that is not Faulted -/

theorem Block.clear_of_clear {b : Block} (hclear : b.err.kind = .clear) : Block.clear b = ({ b with crc := 0 }, .ok) :=
  Block.guarded_of_clear _ (b.faulted_eq_false_iff.mpr hclear)

theorem Block.read_of_clear {b : Block} (hclear : b.err.kind = .clear) : Block.read b = (b, .crcValue b.crc) :=
  Block.guarded_of_clear _ (b.faulted_eq_false_iff.mpr hclear)

theorem Block.readBytes_of_clear {b : Block} (hclear : b.err.kind = .clear) :
    Block.readBytes b = (b, .crcBytes (crcBytes b.crc)) :=
  Block.guarded_of_clear _ (b.faulted_eq_false_iff.mpr hclear)

theorem Block.fold_of_clear {b : Block} (hclear : b.err.kind = .clear) (buf : Buffer) :
    Block.fold buf b = ({ b with crc := crc24 b.crc buf }, .ok) :=
  Block.guarded_of_clear _ (b.faulted_eq_false_iff.mpr hclear)

/-! ### Opening a segment -/

theorem startSegment_heard {s : State} (hclear : s.block.err.kind = .clear) (hr : HexRecord) (base : Word32)
    (off : Option Word16) : startSegment base off (s.heard hr) = afterOpen s hr base off := by
  cases h : s.host.phase <;>
    simp [startSegment, closeSegment, afterOpen, h, State.issue, State.withHost, Block.read_of_clear hclear,
      Block.clear_of_clear hclear, State.heard]

/-- Closed apart, the phase plays no part in what an address record does. -/
theorem onAddressRecord_of_not_closed {s : State} (h : s.host.phase ≠ .closed) (shift : Nat) (hr : HexRecord) :
    onAddressRecord shift hr s =
      if hr.byteCount = 2 then .ok (startSegment (segmentBase shift (payloadWord hr.payload)) none s)
      else .error (abort (.malformedRecord s.host.line) s) := by
  cases hphase : s.host.phase with
  | closed => exact absurd hphase h
  | noSegment => simp only [onAddressRecord, hphase]
  | segmentOpen seg bin => simp only [onAddressRecord, hphase]

/-- The action on either address form with two bytes. -/
theorem settle_onAddressRecord_heard {s : State} (hclear : s.block.err.kind = .clear) (h : s.host.phase ≠ .closed)
    (shift : Nat) {hr : HexRecord} (htwo : hr.byteCount = 2) :
    settle (onAddressRecord shift hr (s.heard hr)) =
      afterOpen s hr (segmentBase shift (payloadWord hr.payload)) none := by
  rw [onAddressRecord_of_not_closed (s := s.heard hr) h, if_pos htwo, settle_ok, startSegment_heard hclear]

/-- The two bytes are big-endian (20_memory.md R68). -/
theorem toNat_payloadWord (hi lo : Byte) : (payloadWord [hi, lo]).toNat = hi.toNat * 256 + lo.toNat := by
  change (hi ++ lo).toNat = _
  rw [toNat_append_bits]
  omega

theorem execRecEsa_of_two {s : State} {r : RecordFields} (hclear : s.block.err.kind = .clear)
    (h : s.host.phase ≠ .closed) (htwo : r.byteCount = 2) (hvalid : Valid (r.toRecord .extendedSegmentAddress)) :
    exec (.recEsa r) s = .next (afterOpen s (r.toRecord .extendedSegmentAddress)
      (segmentBase 4 (payloadWord r.payload)) none) :=
  (exec_of_valid hclear hvalid).trans (congrArg _ (settle_onAddressRecord_heard hclear h 4 htwo))

theorem execRecEla_of_two {s : State} {r : RecordFields} (hclear : s.block.err.kind = .clear)
    (h : s.host.phase ≠ .closed) (htwo : r.byteCount = 2) (hvalid : Valid (r.toRecord .extendedLinearAddress)) :
    exec (.recEla r) s = .next (afterOpen s (r.toRecord .extendedLinearAddress)
      (segmentBase s.host.cfg.elaShift (payloadWord r.payload)) none) :=
  (exec_of_valid hclear hvalid).trans (congrArg _ (settle_onAddressRecord_heard hclear h _ htwo))

/-- Settles O38: a shift of 4 always fits. -/
theorem esaOpensASegment : Obligations.EsaOpensASegment := by
  intro s r hi lo hclear hphase htwo hpayload hvalid
  rw [execRecEsa_of_two hclear hphase htwo hvalid, segmentBase_four, hpayload, toNat_payloadWord]

/-- Settles O39: the shifted value fits. -/
theorem elaOpensASegment : Obligations.ElaOpensASegment := by
  refine ⟨rfl, fun s r hi lo hclear hphase htwo hpayload hvalid hfits => ?_⟩
  rw [← toNat_payloadWord] at hfits ⊢
  rw [execRecEla_of_two hclear hphase htwo hvalid, hpayload, segmentBase_of_lt hfits]

/-- Settles O40: the shifted value does not fit. -/
theorem elaBeyond32BitsOpensASegment : Obligations.ElaBeyond32BitsOpensASegment := by
  intro s r hi lo hclear hphase htwo hpayload hvalid hbig
  rw [← toNat_payloadWord] at hbig ⊢
  rw [execRecEla_of_two hclear hphase htwo hvalid, hpayload, segmentBase_of_le hbig, BitVec.ofNat_toNat,
    BitVec.setWidth_eq]

/-- Settles O41: the host aborts with the line under way. -/
theorem addressRecordOfOtherSizeAborts : Obligations.AddressRecordOfOtherSizeAborts := by
  intro s r hclear hphase htwo
  have haction (shift : Nat) (ty : RecordType) :
      settle (onAddressRecord shift (r.toRecord ty) (s.heard (r.toRecord ty))) =
        afterAbort s (.malformedRecord s.host.line) (said (.recDec s.host.line) (.record (r.toRecord ty))) := by
    have hother : (r.toRecord ty).byteCount ≠ 2 := htwo
    rw [onAddressRecord_of_not_closed (s := s.heard _) hphase, if_neg hother]
    exact abort_eq_afterAbort s _ _
  exact ⟨fun hvalid => (exec_of_valid hclear hvalid).trans (congrArg _ (haction _ _)),
    fun hvalid => (exec_of_valid hclear hvalid).trans (congrArg _ (haction _ _))⟩

end Sys2Proof.Machine

/-! ## Buffers fed to a segment

What feeding a list of buffers leaves, as one update of the state: both sinks and the size take the bytes of all of
them, and the accumulator takes one CRC.FOLD of each (42_host_sequencer.md R207, R220). -/

namespace Sys2Proof.Machine

open Claims (said)

/-! ### The text of a buffer -/

theorem textRow_append (align p : Nat) (a b : List Byte) :
    textRow align p (a ++ b) = textRow align p a ++ textRow align (p + a.length) b := by
  induction a generalizing p with
  | nil => rfl
  | cons x xs ih =>
    have hpos : p + 1 + xs.length = p + (x :: xs).length := by rw [List.length_cons]; omega
    simp only [List.cons_append, textRow, ih, hpos, List.append_assoc]

/-- Settles O54: the first byte stands at the position, the others at the positions after it. -/
theorem textRowsFollowThePosition : Obligations.TextRowsFollowThePosition := by
  intro align p buf
  induction buf generalizing p with
  | nil => rfl
  | cons b bs ih =>
    have hshift (i : Nat) : p + 1 + i = p + (i + 1) := by omega
    rw [textRow, ih, List.length_cons, List.range_succ_eq_map, List.flatMap_cons, List.flatMap_map]
    simp only [hshift, Nat.add_zero, List.getD_cons_zero, List.getD_cons_succ, Nat.succ_eq_add_one]

/-! ### Bytes written -/

/-- The segment with `n` more bytes counted. -/
def Segment.counted (seg : Segment) (n : Nat) : Segment := { seg with size := BitVec.ofNat 32 (seg.size.toNat + n) }

/-- The host with `buf` written to both sinks of the segment `seg` with file `bin`, and counted. -/
def HostState.written (h : HostState) (seg : Segment) (bin : BinFile) (buf : Buffer) : HostState :=
  { h with
    phase := .segmentOpen (seg.counted buf.length) { bin with bytes := bin.bytes ++ buf }
    output := { h.output with text := h.output.text ++ textRow h.cfg.align seg.size.toNat buf } }

theorem Segment.counted_zero (seg : Segment) : seg.counted 0 = seg := by
  simp [counted]

theorem Segment.size_counted {seg : Segment} {n : Nat} (h : seg.size.toNat + n < 2 ^ 32) :
    (seg.counted n).size.toNat = seg.size.toNat + n := by
  simp only [counted, BitVec.toNat_ofNat]
  omega

theorem Segment.counted_counted {seg : Segment} {n : Nat} (h : seg.size.toNat + n < 2 ^ 32) (m : Nat) :
    (seg.counted n).counted m = seg.counted (n + m) := by
  rw [counted, size_counted h, counted, counted, Nat.add_assoc]

section

variable {s : State} {seg : Segment} {bin : BinFile}

theorem HostState.written_nil {h : HostState} (hphase : h.phase = .segmentOpen seg bin) : h.written seg bin [] = h := by
  obtain ⟨⟩ := h
  cases hphase
  simp [written, Segment.counted_zero, textRow]

theorem HostState.written_written (h : HostState) {a : Buffer} (hfits : seg.size.toNat + a.length < 2 ^ 32)
    (b : Buffer) :
    (h.written seg bin a).written (seg.counted a.length) { bin with bytes := bin.bytes ++ a } b =
      h.written seg bin (a ++ b) := by
  simp [written, Segment.counted_counted hfits, Segment.size_counted hfits, textRow_append]

theorem emit_of_fits (hphase : s.host.phase = .segmentOpen seg bin) {buf : Buffer}
    (hfits : seg.size.toNat + buf.length < 2 ^ 32) :
    emit buf s = .ok (s.withHost (s.host.written seg bin buf)) := by
  have hsize : seg.size + BitVec.ofNat 32 buf.length = (seg.counted buf.length).size := by
    simp [Segment.counted, BitVec.ofNat_add]
  rw [emit_of_open hphase, if_pos hfits, hsize]
  rfl

theorem emit_of_oversize (hphase : s.host.phase = .segmentOpen seg bin) {buf : Buffer}
    (hbig : 2 ^ 32 ≤ seg.size.toNat + buf.length) : emit buf s = .error (hostRefuse .sizeOverflow s) := by
  rw [emit_of_open hphase, if_neg (Nat.not_lt.mpr hbig)]

/-! ### Bytes fed -/

/-- `s` with the buffers fed, one CRC.FOLD each, to the segment `seg` with file `bin`. -/
def State.fed (s : State) (seg : Segment) (bin : BinFile) (bufs : List Buffer) : State :=
  { s with
    block := { s.block with crc := bufs.foldl crc24 s.block.crc }
    host := s.host.written seg bin bufs.flatten
    traffic := s.traffic ++ bufs.map fun buf => said (.crcFold buf) .ok }

/-- The buffers fed one after the other. -/
def feedAll : List Buffer → State → Except State State
  | [], s => .ok s
  | buf :: bufs, s => (feed buf s).bind (feedAll bufs)

theorem State.fed_nil (hphase : s.host.phase = .segmentOpen seg bin) : s.fed seg bin [] = s := by
  simp [fed, HostState.written_nil hphase]

theorem State.fed_cons (s : State) {buf : Buffer} (hfits : seg.size.toNat + buf.length < 2 ^ 32) (bufs : List Buffer) :
    (s.fed seg bin [buf]).fed (seg.counted buf.length) { bin with bytes := bin.bytes ++ buf } bufs =
      s.fed seg bin (buf :: bufs) := by
  simp [fed, HostState.written_written _ hfits]

theorem feed_of_fits (hclear : s.block.err.kind = .clear) (hphase : s.host.phase = .segmentOpen seg bin) {buf : Buffer}
    (hfits : seg.size.toNat + buf.length < 2 ^ 32) : feed buf s = .ok (s.fed seg bin [buf]) := by
  simp [feed_eq_bind, emit_of_fits hphase hfits, Except.bind, State.issue, State.withHost, State.fed,
    Block.fold_of_clear hclear]

theorem feed_of_oversize (hphase : s.host.phase = .segmentOpen seg bin) {buf : Buffer}
    (hbig : 2 ^ 32 ≤ seg.size.toNat + buf.length) : feed buf s = .error (hostRefuse .sizeOverflow s) := by
  rw [feed_eq_bind, emit_of_oversize hphase hbig, Except.bind]

theorem State.fed_one_phase (s : State) (seg : Segment) (bin : BinFile) (buf : Buffer) :
    (s.fed seg bin [buf]).host.phase =
      .segmentOpen (seg.counted buf.length) { bin with bytes := bin.bytes ++ buf } := by
  simp [fed, HostState.written]

theorem feedAll_of_fits {bufs : List Buffer} (hclear : s.block.err.kind = .clear)
    (hphase : s.host.phase = .segmentOpen seg bin) (hfits : seg.size.toNat + bufs.flatten.length < 2 ^ 32) :
    feedAll bufs s = .ok (s.fed seg bin bufs) := by
  induction bufs generalizing s seg bin with
  | nil => rw [feedAll, State.fed_nil hphase]
  | cons buf bufs ih =>
    rw [List.flatten_cons, List.length_append] at hfits
    have hfirst : seg.size.toNat + buf.length < 2 ^ 32 := by omega
    have hrest : (seg.counted buf.length).size.toNat + bufs.flatten.length < 2 ^ 32 := by
      rw [Segment.size_counted hfirst]; omega
    rw [feedAll, feed_of_fits hclear hphase hfirst, Except.bind,
      ih (s := s.fed seg bin [buf]) hclear (s.fed_one_phase seg bin buf) hrest, State.fed_cons s hfirst]

/-- The buffer that brings the segment to 2^32 bytes is not fed (42_host_sequencer.md R231; log 11). -/
theorem feedAll_of_oversize {bufs : List Buffer} (hclear : s.block.err.kind = .clear)
    (hphase : s.host.phase = .segmentOpen seg bin) (hbig : 2 ^ 32 ≤ seg.size.toNat + bufs.flatten.length) :
    ∃ u, feedAll bufs s = .error (hostRefuse .sizeOverflow u) ∧ u.block.err = s.block.err ∧ u.free = s.free := by
  induction bufs generalizing s seg bin with
  | nil =>
    have hsize := seg.size.isLt
    rw [List.flatten_nil, List.length_nil] at hbig
    omega
  | cons buf bufs ih =>
    rw [List.flatten_cons, List.length_append] at hbig
    by_cases hfirst : seg.size.toNat + buf.length < 2 ^ 32
    · have hrest : 2 ^ 32 ≤ (seg.counted buf.length).size.toNat + bufs.flatten.length := by
        rw [Segment.size_counted hfirst]; omega
      rw [feedAll, feed_of_fits hclear hphase hfirst, Except.bind]
      exact ih (s := s.fed seg bin [buf]) hclear (s.fed_one_phase seg bin buf) hrest
    · exact ⟨s, by rw [feedAll, feed_of_oversize hphase (Nat.not_lt.mp hfirst), Except.bind], rfl, rfl⟩

end

end Sys2Proof.Machine

/-! ## Data records

Which of the four ways of a Data record in an open segment is taken depends on its gap (42_host_sequencer.md R210 to
R213, R227, R231). -/

namespace Sys2Proof.Machine

open Claims (said Valid afterOpen afterAbort afterRefuse nextOffset)

section

variable {s : State} {r : RecordFields} {seg : Segment} {bin : BinFile}

/-! ### The payload -/

/-- The segment as it stands after the record (42_host_sequencer.md R211). -/
def Segment.past (seg : Segment) (r : RecordFields) : Segment := { seg with runningOffset := nextOffset r }

theorem nextOffset_eq (r : RecordFields) : r.address.zeroExtend 32 + r.byteCount.zeroExtend 32 = nextOffset r := by
  unfold nextOffset
  bv_omega

theorem advance_fed (s : State) (seg : Segment) (bin : BinFile) (bufs : List Buffer) :
    advance (r.toRecord .data) (s.fed seg bin bufs) = s.fed (seg.past r) bin bufs := by
  simp only [advance, State.fed, HostState.written, State.withHost, RecordFields.toRecord, nextOffset_eq]
  rfl

theorem feedPayload_of_fits (hclear : s.block.err.kind = .clear) (hphase : s.host.phase = .segmentOpen seg bin)
    (hfits : seg.size.toNat + r.payload.length < 2 ^ 32) :
    feedPayload (r.toRecord .data) s = .ok (s.fed (seg.past r) bin [r.payload]) := by
  have hfeed : feed (r.toRecord .data).payload s = .ok (s.fed seg bin [r.payload]) := feed_of_fits hclear hphase hfits
  rw [feedPayload_eq_bind, hfeed, Except.bind, advance_fed]

theorem feedPayload_of_oversize (hphase : s.host.phase = .segmentOpen seg bin)
    (hbig : 2 ^ 32 ≤ seg.size.toNat + r.payload.length) :
    feedPayload (r.toRecord .data) s = .error (hostRefuse .sizeOverflow s) := by
  have hfeed : feed (r.toRecord .data).payload s = .error _ := feed_of_oversize hphase hbig
  rw [feedPayload_eq_bind, hfeed, Except.bind]

/-! ### The ways of a record -/

theorem onData_of_open (hphase : s.host.phase = .segmentOpen seg bin) (hr : HexRecord) :
    onData hr s = placeData hr s := by
  simp only [onData, hphase]

/-- A record below the expected offset is left to the policy. -/
theorem onData_of_backward (hphase : s.host.phase = .segmentOpen seg bin)
    (hback : r.address.toNat < seg.runningOffset.toNat) :
    onData (r.toRecord .data) s = backwardRecord (r.toRecord .data) s := by
  have hgap : gapOf seg (r.toRecord .data) < 0 := by simp only [gapOf, RecordFields.toRecord]; omega
  rw [onData_of_open hphase, placeData_of_open hphase, if_pos hgap]

/-- Any other record is fed after what bridges its gap. -/
theorem onData_of_gap (hphase : s.host.phase = .segmentOpen seg bin) {gap : Nat}
    (haddr : r.address.toNat = seg.runningOffset.toNat + gap) :
    gapOf seg (r.toRecord .data) = gap ∧
      onData (r.toRecord .data) s =
        (bridgeGap seg (r.toRecord .data) s).bind (feedPayload (r.toRecord .data)) := by
  have hgap : gapOf seg (r.toRecord .data) = gap := by simp only [gapOf, RecordFields.toRecord]; omega
  refine ⟨hgap, ?_⟩
  rw [onData_of_open hphase, placeData_of_open hphase, if_neg (by omega)]

/-- With no gap there is nothing to bridge. -/
theorem onData_of_no_gap (hphase : s.host.phase = .segmentOpen seg bin)
    (haddr : seg.runningOffset.toNat = r.address.toNat) :
    onData (r.toRecord .data) s = feedPayload (r.toRecord .data) s := by
  obtain ⟨hgap, hdata⟩ := onData_of_gap (r := r) (gap := 0) hphase haddr.symm
  have hbridge : bridgeGap seg (r.toRecord .data) s = .ok s := by
    rw [bridgeGap, hgap, if_neg (by omega), if_neg (by omega)]
  rw [hdata, hbridge, Except.bind]

/-- A gap below the threshold is a buffer of pad bytes. -/
theorem onData_of_padded (hclear : s.block.err.kind = .clear) (hphase : s.host.phase = .segmentOpen seg bin) {gap : Nat}
    (hpos : 0 < gap) (haddr : r.address.toNat = seg.runningOffset.toNat + gap)
    (hbelow : s.host.cfg.gapmax = 0 ∨ gap < s.host.cfg.gapmax)
    (hfits : seg.size.toNat + gap + r.payload.length < 2 ^ 32) :
    onData (r.toRecord .data) s =
      .ok (s.fed (seg.past r) bin [List.replicate gap s.host.cfg.pad, r.payload]) := by
  obtain ⟨hgap, hdata⟩ := onData_of_gap hphase haddr
  have hpads : seg.size.toNat + (List.replicate gap s.host.cfg.pad).length < 2 ^ 32 := by
    rw [List.length_replicate]; omega
  have hrest : (seg.counted (List.replicate gap s.host.cfg.pad).length).size.toNat + r.payload.length < 2 ^ 32 := by
    rw [Segment.size_counted hpads, List.length_replicate]; omega
  have hbridge : bridgeGap seg (r.toRecord .data) s = feed (List.replicate gap s.host.cfg.pad) s := by
    rw [bridgeGap, hgap, if_neg (by omega), if_pos (by omega), Int.toNat_natCast]
  rw [hdata, hbridge, feed_of_fits hclear hphase hpads, Except.bind,
    feedPayload_of_fits (s := s.fed seg bin _) hclear (s.fed_one_phase seg bin _) hrest]
  exact congrArg Except.ok (State.fed_cons (seg := seg.past r) (bin := bin) s hpads [r.payload])

end

/-! ### The statements -/

/-- Settles O31: with no gap the payload is fed. -/
theorem dataRecordFeedsItsPayload : Obligations.DataRecordFeedsItsPayload := by
  intro s r seg bin hclear hvalid hphase haddr hfits
  have haction := (onData_of_no_gap (s := s.heard (r.toRecord .data)) hphase haddr).trans
    (feedPayload_of_fits hclear hphase hfits)
  refine (exec_of_action (ty := .data) hclear hvalid haction).trans ?_
  simp [State.fed, HostState.written, Segment.counted, Segment.past, State.heard]

/-- Settles O32: the pad bytes and the payload are two buffers. -/
theorem gapIsPaddedBeforeThePayload : Obligations.GapIsPaddedBeforeThePayload := by
  intro s r seg bin gap hclear hvalid hphase hpos haddr hbelow hfits
  have haction := onData_of_padded (s := s.heard (r.toRecord .data)) hclear hphase hpos haddr hbelow hfits
  refine (exec_of_action (ty := .data) hclear hvalid haction).trans ?_
  simp [State.fed, HostState.written, Segment.counted, Segment.past, State.heard, Nat.add_assoc]

/-- Settles O33: the segment opened at the record's offset is fed the payload. -/
theorem gapAtTheThresholdSplits : Obligations.GapAtTheThresholdSplits := by
  intro s r seg bin gap hclear hwf hvalid hphase haddr hset hreached
  obtain ⟨hgap, haction⟩ := onData_of_gap (s := s.heard (r.toRecord .data)) hphase haddr
  have hbridge : bridgeGap seg (r.toRecord .data) (s.heard (r.toRecord .data)) =
      .ok (afterOpen s (r.toRecord .data) seg.baseAddress (some r.address)) := by
    rw [bridgeGap, hgap, if_pos ⟨hset, Int.ofNat_le.mpr hreached⟩, startSegment_heard hclear]
    rfl
  have hfits : (0 : Word32).toNat + r.payload.length < 2 ^ 32 := by
    have hlen := (RecordFields.wellFormed_iff r).mp hwf
    have hcount := r.byteCount.isLt
    simp only [BitVec.ofNat_eq_ofNat, BitVec.toNat_ofNat]
    omega
  have hpayload := feedPayload_of_fits (s := afterOpen s (r.toRecord .data) seg.baseAddress (some r.address))
    (r := r) hclear rfl hfits
  rw [hbridge, Except.bind, hpayload] at haction
  refine (exec_of_action (ty := .data) hclear hvalid haction).trans ?_
  simp [State.fed, HostState.written, Segment.counted, Segment.past, afterOpen, hphase]

/-- The exchanges before a record are not read when it is placed. -/
theorem exists_settle_placeData (hr : HexRecord) (u : State) :
    ∃ v : State, ∀ xs, settle (placeData hr { u with traffic := xs }) = v.prepend xs := by
  refine ⟨settle (placeData hr { u with traffic := [] }), fun xs => ?_⟩
  rw [← settle_prependEnd, ← placeData_prepend]
  simp [State.prepend]

/-- Settles O34: both are the record's placing in the segment just opened, on which the record of responses has no
influence. -/
theorem firstDataRecordOpensASegment : Obligations.FirstDataRecordOpensASegment := by
  intro s r hclear hvalid hphase
  obtain ⟨u, hu⟩ : ∃ u, u = afterOpen s (r.toRecord .data) s.host.cfg.base none := ⟨_, rfl⟩
  obtain ⟨v, hplaced⟩ := exists_settle_placeData (r.toRecord .data) u
  have huclear : u.block.err.kind = .clear := hu ▸ hclear
  obtain ⟨seg, bin, huphase⟩ : ∃ seg bin, u.host.phase = .segmentOpen seg bin := hu ▸ ⟨_, _, rfl⟩
  have huline : u.host.line = s.host.line := hu ▸ rfl
  have hutraffic : u.traffic =
      s.traffic ++ [said (.recDec s.host.line) (.record (r.toRecord .data)), said .crcClr .ok] := by
    simp [hu, afterOpen, hphase]
  have hopened : onData (r.toRecord .data) (s.heard (r.toRecord .data)) = placeData (r.toRecord .data) u := by
    rw [hu, ← startSegment_heard hclear]
    simp only [onData, State.heard_host, hphase]
  have hfirst := exec_of_action (ty := .data) hclear hvalid hopened
  have hsecond := exec_of_action (ty := .data) huclear hvalid
    (onData_of_open (s := u.heard (r.toRecord .data)) huphase _)
  rw [← hu]
  refine ⟨v.prepend _, v.prepend _, hfirst.trans (congrArg _ (hplaced _)), hsecond.trans (congrArg _ (hplaced _)),
    rfl, rfl, rfl, rfl, rfl, v.traffic, ?_, ?_⟩
  · rw [State.prepend_traffic, hutraffic]
  · rw [State.prepend_traffic, huline]

/-- Settles O35: `backwardRecord` by the policy. -/
theorem backwardRecordFollowsThePolicy : Obligations.BackwardRecordFollowsThePolicy := by
  intro s r seg bin hclear hvalid hphase hback
  have haction := onData_of_backward (s := s.heard (r.toRecord .data)) hphase hback
  have hexec := exec_of_action (ty := .data) hclear hvalid haction
  refine ⟨fun hpolicy => hexec.trans ?_, fun hpolicy => hexec.trans ?_, fun hpolicy hfits => hexec.trans ?_⟩
  · simp only [backwardRecord, State.heard_host, hpolicy]
    rfl
  · simp only [backwardRecord, State.heard_host, hpolicy, ← abort_eq_afterAbort]
    rfl
  · have hfed := feedPayload_of_fits (s := s.heard (r.toRecord .data)) hclear hphase hfits
    simp only [backwardRecord, State.heard_host, hpolicy, hfed]
    simp [State.fed, HostState.written, Segment.counted, Segment.past, State.heard]

/-- Settles O36: the payload is not fed. -/
theorem oversizedSegmentIsRefused : Obligations.OversizedSegmentIsRefused := by
  intro s r seg bin hclear hvalid hphase haddr hbig
  have haction := (onData_of_no_gap (s := s.heard (r.toRecord .data)) hphase haddr).trans
    (feedPayload_of_oversize hphase hbig)
  exact exec_of_action (ty := .data) hclear hvalid haction

end Sys2Proof.Machine

/-! ## The end of the file

An EndOfFile record pads the only segment row by row, appends the CRC bytes asked for, closes the segment and ends the
run (42_host_sequencer.md R215 to R217, R221, R222, R230). -/

namespace Sys2Proof.Machine

open Claims (said Valid padBuffers)

/-! ### The pad bytes -/

/-- How many pad bytes the segment of `size` bytes gets (42_host_sequencer.md R221). -/
def padCount (cfg : RunConfig) (size : Word32) : Nat := cfg.target - size.toNat - (if cfg.crc = true then 3 else 0)

/-- With a target of 0 no room is kept for the CRC bytes, and there is nothing to pad either way. -/
theorem toNat_remainingBytes (cfg : RunConfig) (size : Word32) :
    (remainingBytes cfg size).toNat = padCount cfg size := by
  unfold remainingBytes padCount
  by_cases htarget : cfg.target = 0
  · rw [if_neg (by simp [htarget])]
    omega
  · simp only [ne_eq, htarget, not_false_eq_true, and_true]
    split_ifs <;> omega

theorem flatten_padBuffers (align : Nat) (pad : Byte) (n : Nat) :
    (padBuffers align pad n).flatten = List.replicate n pad := by
  have hrows : n / align * align + n % align = n := Nat.div_add_mod' n align
  unfold padBuffers
  split_ifs with hzero halign hmod
  · simp [hzero]
  · simp
  · simp [show n / align * align = n by omega]
  · simp [hrows]

theorem feedAll_one (buf : Buffer) (s : State) : feedAll [buf] s = feed buf s := by
  rw [feedAll]
  cases feed buf s <;> rfl

theorem feedAll_append (xs ys : List Buffer) (s : State) : feedAll (xs ++ ys) s = (feedAll xs s).bind (feedAll ys) := by
  induction xs generalizing s with
  | nil => rfl
  | cons buf xs ih =>
    rw [List.cons_append, feedAll, feedAll]
    cases feed buf s with
    | ok t => exact ih t
    | error t => rfl

theorem feedRows_eq_feedAll (row : Buffer) (k : Nat) (s : State) :
    feedRows row k s = feedAll (List.replicate k row) s := by
  induction k generalizing s with
  | zero => rfl
  | succ k ih =>
    rw [feedRows_succ, List.replicate_succ, feedAll, funext ih]

theorem padRows_eq_feedAll {n : Nat} (hpos : 0 < n) (s : State) :
    padRows n s = feedAll (padBuffers s.host.cfg.align s.host.cfg.pad n) s := by
  rw [padRows_eq_bind, padBuffers, if_neg hpos.ne']
  by_cases halign : s.host.cfg.align = 0
  · rw [if_neg (by omega), if_pos halign, feedAll_one]
  · rw [if_pos (Nat.pos_of_ne_zero halign), if_neg halign, feedRows_eq_feedAll, feedAll_append]
    congr 1
    funext t
    by_cases hmod : n % s.host.cfg.align = 0
    · rw [if_neg (by omega), if_pos hmod, feedAll]
    · rw [if_pos (Nat.pos_of_ne_zero hmod), if_neg hmod, feedAll_one]

/-! ### Finalization -/

section

variable {s : State} {seg : Segment} {bin : BinFile}

theorem finalize_eq_feedAll (hphase : s.host.phase = .segmentOpen seg bin) :
    finalize s = (feedAll (padBuffers s.host.cfg.align s.host.cfg.pad (padCount s.host.cfg seg.size)) s).bind
      fun t => if s.host.cfg.crc then appendCrc t else .ok t := by
  have hcount := toNat_remainingBytes s.host.cfg seg.size
  rw [finalize_of_open hphase, hcount]
  split
  · rw [padRows_eq_feedAll (by omega)]
  · have hzero : padCount s.host.cfg seg.size = 0 := by omega
    rw [hzero, padBuffers, if_pos rfl, feedAll]

/-- The CRC bytes of a finalized segment, if asked for. -/
def crcTail (cfg : RunConfig) (c : Word24) : Buffer := if cfg.crc = true then crcBytes c else []

/-- The reading of the CRC bytes, if asked for. -/
def crcTailRead (cfg : RunConfig) (c : Word24) : List Exchange :=
  if cfg.crc = true then [said .crcRdb (.crcBytes (crcBytes c))] else []

/-- The CRC bytes are written and counted but not folded (70_reset_and_hazards.md R297). -/
theorem appendCrc_of_fits (hclear : s.block.err.kind = .clear) (hphase : s.host.phase = .segmentOpen seg bin)
    (hfits : seg.size.toNat + (crcTail s.host.cfg s.block.crc).length < 2 ^ 32) :
    (if s.host.cfg.crc then appendCrc s else .ok s) = .ok { s with
      host := s.host.written seg bin (crcTail s.host.cfg s.block.crc)
      traffic := s.traffic ++ crcTailRead s.host.cfg s.block.crc } := by
  cases hcrc : s.host.cfg.crc with
  | false => simp [crcTail, crcTailRead, hcrc, HostState.written_nil hphase]
  | true =>
    have htail : crcTail s.host.cfg s.block.crc = crcBytes s.block.crc := if_pos hcrc
    rw [htail] at hfits ⊢
    rw [if_pos rfl, appendCrc, emit_of_fits (s := s.issue _ _) hphase hfits]
    simp [State.withHost, State.issue, Block.readBytes_of_clear hclear, crcTailRead, hcrc]

/-- `s` with the rows fed to the segment `seg` with file `bin`, and then the bytes of the CRC `c`, if asked for. -/
def State.finalized (s : State) (seg : Segment) (bin : BinFile) (rows : List Buffer) (c : Word24) : State :=
  { s.fed seg bin rows with
    host := s.host.written seg bin (rows.flatten ++ crcTail s.host.cfg c)
    traffic := (s.fed seg bin rows).traffic ++ crcTailRead s.host.cfg c }

theorem finalize_of_fits {rows : List Buffer} {c : Word24} (hclear : s.block.err.kind = .clear)
    (hphase : s.host.phase = .segmentOpen seg bin)
    (hrows : rows = padBuffers s.host.cfg.align s.host.cfg.pad (padCount s.host.cfg seg.size))
    (hc : c = rows.foldl crc24 s.block.crc)
    (hfits : seg.size.toNat + rows.flatten.length + (crcTail s.host.cfg c).length < 2 ^ 32) :
    finalize s = .ok (s.finalized seg bin rows c) := by
  have hpads : seg.size.toNat + rows.flatten.length < 2 ^ 32 := by omega
  have htail : (seg.counted rows.flatten.length).size.toNat + (crcTail s.host.cfg c).length < 2 ^ 32 := by
    rwa [Segment.size_counted hpads]
  rw [finalize_eq_feedAll hphase, ← hrows, feedAll_of_fits hclear hphase hpads, Except.bind]
  subst hc
  refine (appendCrc_of_fits (s := s.fed seg bin rows) hclear rfl htail).trans ?_
  exact congrArg (fun h => Except.ok { s.finalized seg bin rows _ with host := h })
    (HostState.written_written _ hpads _)

/-- Padding or CRC bytes that do not fit end the run (42_host_sequencer.md R231; log 11). -/
theorem finalize_of_oversize (hclear : s.block.err.kind = .clear) (hphase : s.host.phase = .segmentOpen seg bin)
    (hbig : 2 ^ 32 ≤ seg.size.toNat + padCount s.host.cfg seg.size + (if s.host.cfg.crc = true then 3 else 0)) :
    ∃ u, finalize s = .error (hostRefuse .sizeOverflow u) ∧ u.block.err = s.block.err ∧ u.free = s.free := by
  have hlen : (padBuffers s.host.cfg.align s.host.cfg.pad (padCount s.host.cfg seg.size)).flatten.length =
      padCount s.host.cfg seg.size := by
    rw [flatten_padBuffers, List.length_replicate]
  rw [finalize_eq_feedAll hphase]
  generalize padBuffers s.host.cfg.align s.host.cfg.pad (padCount s.host.cfg seg.size) = rows at hlen ⊢
  rw [← hlen] at hbig
  by_cases hpads : seg.size.toNat + rows.flatten.length < 2 ^ 32
  · have hcrc : s.host.cfg.crc = true := by
      by_contra hoff
      rw [if_neg hoff] at hbig
      omega
    rw [if_pos hcrc] at hbig
    have htail : 2 ^ 32 ≤ (seg.counted rows.flatten.length).size.toNat + 3 := by
      rwa [Segment.size_counted hpads]
    rw [feedAll_of_fits hclear hphase hpads, Except.bind, if_pos hcrc]
    have hread : Block.readBytes (s.fed seg bin rows).block = _ := Block.readBytes_of_clear hclear
    have herr : (Block.readBytes (s.fed seg bin rows).block).1.err = s.block.err := by rw [hread]; rfl
    exact ⟨(s.fed seg bin rows).issue .crcRdb Block.readBytes, emit_of_oversize rfl htail, herr, rfl⟩
  · obtain ⟨u, hfeed, herr, hfree⟩ := feedAll_of_oversize hclear hphase (Nat.not_lt.mp hpads)
    exact ⟨u, by rw [hfeed, Except.bind], herr, hfree⟩

/-! ### The end of the run -/

/-- The last segment is closed with its trailer, and the run is over. -/
theorem endRun_closeSegment_of_open (hclear : s.block.err.kind = .clear)
    (hphase : s.host.phase = .segmentOpen seg bin) :
    endRun (closeSegment s) = { s with
      host := { s.host with
        status := .finished
        phase := .closed
        textOpen := false
        output :=
          { binaries := s.host.output.binaries ++ [bin]
            text := s.host.output.text ++ [.trailer seg.size s.block.crc] } }
      traffic := s.traffic ++ [said .crcRd (.crcValue s.block.crc)] } := by
  simp [endRun, closeSegment, hphase, State.issue, State.withHost, Block.read_of_clear hclear]

end

/-- Settles O44: there is no segment to close. -/
theorem eofWithoutASegmentEndsTheRun : Obligations.EofWithoutASegmentEndsTheRun := by
  intro s r hclear hvalid hphase
  have haction : onEof (s.heard (r.toRecord .endOfFile)) = .ok (endRun (s.heard (r.toRecord .endOfFile))) := by
    simp only [onEof, State.heard_host, hphase]
  exact exec_of_action (ty := .endOfFile) hclear hvalid haction

/-- Settles O45: nothing is finalized. -/
theorem eofAfterSeveralSegmentsOnlyCloses : Obligations.EofAfterSeveralSegmentsOnlyCloses := by
  intro s r seg bin hclear hvalid hphase hcount
  have haction := onEof_of_open (s := s.heard (r.toRecord .endOfFile)) hphase
  rw [State.heard_host, if_neg hcount, Except.bind,
    endRun_closeSegment_of_open (s := s.heard _) hclear hphase] at haction
  refine (exec_of_action (ty := .endOfFile) hclear hvalid haction).trans ?_
  simp [State.heard]

/-- Settles O46: the segment is finalized (`finalize_of_fits`) and closed. -/
theorem eofFinalizesTheOnlySegment : Obligations.EofFinalizesTheOnlySegment := by
  intro s r seg bin pads rows c tail hclear hvalid hphase hcount hpads hrows hc htail hfits
  have hflat : rows.flatten = pads := by rw [hrows, flatten_padBuffers, hpads, List.length_replicate]
  have hrows' : rows = padBuffers s.host.cfg.align s.host.cfg.pad (padCount s.host.cfg seg.size) := by
    rw [hrows, hpads, List.length_replicate, padCount]
  have htail' : tail = crcTail s.host.cfg c := by rw [htail, crcTail, crcBytes_eq_div]
  have hfits' : seg.size.toNat + rows.flatten.length + (crcTail s.host.cfg c).length < 2 ^ 32 := by
    rwa [hflat, ← htail']
  have hread : crcTailRead s.host.cfg c = if s.host.cfg.crc = true then [said .crcRdb (.crcBytes tail)] else [] := by
    rw [htail, ← crcBytes_eq_div, crcTailRead]
    split_ifs <;> rfl
  have haction := onEof_of_open (s := s.heard (r.toRecord .endOfFile)) hphase
  rw [State.heard_host, if_pos hcount, finalize_of_fits (s := s.heard _) hclear hphase hrows' hc hfits', Except.bind,
    endRun_closeSegment_of_open (s := (s.heard _).finalized seg bin rows c) hclear rfl] at haction
  refine (exec_of_action (ty := .endOfFile) hclear hvalid haction).trans ?_
  simp [State.finalized, State.fed, HostState.written, Segment.counted, State.heard, hflat, ← htail', ← hc, hread,
    Nat.add_assoc]

/-- Settles O47: with room for three bytes, the pad bytes are what is missing to the target less three. -/
theorem finalizedFileEndsAtTheTarget : Obligations.FinalizedFileEndsAtTheTarget := by
  intro s t r seg bin hclear hvalid hphase hcount hlen hcrc hroom htarget hexec
  obtain ⟨pads, hpads⟩ : ∃ pads, pads = List.replicate
    (s.host.cfg.target - seg.size.toNat - (if s.host.cfg.crc = true then 3 else 0)) s.host.cfg.pad := ⟨_, rfl⟩
  obtain ⟨rows, hrows⟩ : ∃ rows, rows = padBuffers s.host.cfg.align s.host.cfg.pad pads.length := ⟨_, rfl⟩
  obtain ⟨c, hc⟩ : ∃ c, c = rows.foldl crc24 s.block.crc := ⟨_, rfl⟩
  obtain ⟨tail, htail⟩ : ∃ tail, tail = if s.host.cfg.crc = true then
    [BitVec.ofNat 8 (c.toNat / 65536), BitVec.ofNat 8 (c.toNat / 256), BitVec.ofNat 8 c.toNat] else [] := ⟨_, rfl⟩
  have heof := eofFinalizesTheOnlySegment s r seg bin pads rows c tail hclear hvalid hphase hcount hpads hrows hc htail
  rw [if_pos hcrc] at hpads htail
  have hpadlen : pads.length = s.host.cfg.target - seg.size.toNat - 3 := by rw [hpads, List.length_replicate]
  have htaillen : tail.length = 3 := by rw [htail]; rfl
  have hsum : seg.size.toNat + pads.length + tail.length = s.host.cfg.target := by omega
  rw [heof (by omega)] at hexec
  cases hexec
  refine ⟨{ bin with bytes := bin.bytes ++ pads ++ tail }, _, rfl, ?_, ?_, by rw [hsum], rfl⟩
  · rw [List.length_append, List.length_append, hlen, hsum]
  · rw [List.drop_left' (by rw [List.length_append]; omega), htail]

/-- Settles O37: finalization ends the run. -/
theorem oversizedFinalizationIsRefused : Obligations.OversizedFinalizationIsRefused := by
  intro s r seg bin pads tail hclear hvalid hphase hcount htail hpads hbig
  have hbig' : 2 ^ 32 ≤ seg.size.toNat + padCount s.host.cfg seg.size + (if s.host.cfg.crc = true then 3 else 0) := by
    rwa [padCount, ← htail, ← hpads]
  obtain ⟨u, hfinal, herr, hfree⟩ := finalize_of_oversize (s := s.heard (r.toRecord .endOfFile)) hclear hphase hbig'
  have haction := onEof_of_open (s := s.heard (r.toRecord .endOfFile)) hphase
  rw [State.heard_host, if_pos hcount, hfinal, Except.bind] at haction
  exact ⟨_, exec_of_action (ty := .endOfFile) hclear hvalid haction, rfl, rfl, congrArg Config.unclaimedOutput hfree,
    herr⟩

end Sys2Proof.Machine

/-! ## The run

Stripping, the start of a run, and the end of its input (42_host_sequencer.md R202, R203, R224, R229). -/

namespace Sys2Proof.Machine

open Claims (said Valid Blank afterRefuse)

/-! ### Stripping -/

theorem isBlank_iff (c : Byte) : isBlank c = true ↔ Blank c := by
  simp [isBlank, Blank, or_assoc]

theorem not_blank_of_head?_dropWhile {l : Line} {c : Byte} (h : (l.dropWhile isBlank).head? = some c) : ¬ Blank c := by
  have hnot := List.head?_dropWhile_not isBlank l
  rw [h] at hnot
  rw [← isBlank_iff]
  simpa using hnot

/-- Settles O51: the blanks in front are `takeWhile`'s, those behind `rtakeWhile`'s; what stands in front of the blanks
behind begins where the line without the blanks in front does. -/
theorem stripRemovesBlanksAtBothEnds : Obligations.StripRemovesBlanksAtBothEnds := by
  intro l
  have hfront : l = l.takeWhile isBlank ++ l.dropWhile isBlank := List.takeWhile_append_dropWhile.symm
  have hback : l.dropWhile isBlank = strip l ++ (l.dropWhile isBlank).rtakeWhile isBlank := by
    simp only [strip, List.rtakeWhile, ← List.reverse_append, List.takeWhile_append_dropWhile, List.reverse_reverse]
  refine ⟨l.takeWhile isBlank, (l.dropWhile isBlank).rtakeWhile isBlank, ?_, ?_, ?_, ?_, ?_⟩
  · rw [List.append_assoc, ← hback, ← hfront]
  · exact fun c hc => (isBlank_iff c).mp (List.mem_takeWhile_imp hc)
  · exact fun c hc => (isBlank_iff c).mp (List.mem_rtakeWhile_imp hc)
  · intro c hc
    have hhead : (l.dropWhile isBlank).head? = some c := by
      rw [hback]
      exact List.mem_head?_append_of_mem_head? hc
    exact not_blank_of_head?_dropWhile hhead
  · intro c hc
    obtain ⟨hne, rfl⟩ := List.mem_getLast?_eq_getLast hc
    rw [← isBlank_iff]
    exact List.rdropWhile_last_not isBlank _ hne

/-! ### The start of a run -/

/-- Settles O52: a requested run is taken once the port is empty, and `startRun` goes by its file. -/
theorem runStartsWithReset : Obligations.RunStartsWithReset := by
  intro s l hport hlaunch
  have hstep : step s = .next (startRun l { s.cleared with launch := none }) := by
    simp only [step, fetch_of_launch hport hlaunch]
  rw [hstep]
  refine ⟨fun hfile => ?_, fun lines hfile => ?_⟩
  · simp only [startRun, hfile]
    rfl
  · simp only [startRun, hfile, State.issue, State.withHost, State.cleared, hport]
    rfl

/-! ### The end of the input -/

theorem hostRefuse_eq_afterRefuse (s : State) (why : RefuseReason) : hostRefuse why s = afterRefuse s why [] := by
  simp [hostRefuse, afterRefuse]

/-- Settles O53: with `finalize` the host's action is that of an EndOfFile record, whose REC.DEC leaves the block and is
recorded alone. -/
theorem missingEofFollowsThePolicy : Obligations.MissingEofFollowsThePolicy := by
  intro s hport hlaunch hrun hinput
  have hstep : step s = .next (endOfInput s.cleared) := by
    simp only [step, fetch_of_endOfInput hport hlaunch hrun hinput]
  have hcfg : s.cleared.host.cfg = s.host.cfg := rfl
  rw [hstep]
  refine ⟨fun hpolicy => ?_, fun hpolicy hfaulted => ?_, fun hpolicy hclear r hvalid => ?_⟩
  · simp only [endOfInput, hcfg, hpolicy, hostRefuse_eq_afterRefuse]
    rfl
  · have hf : s.cleared.block.faulted = true :=
      eq_true_of_ne_false (mt (Block.faulted_eq_false_iff s.block).mp hfaulted)
    simp only [endOfInput, hcfg, hpolicy, hf, if_true, hostRefuse_eq_afterRefuse]
    rfl
  · have hf : s.cleared.block.faulted = false := (Block.faulted_eq_false_iff _).mpr hclear
    have hend : endOfInput s.cleared = settle (onEof s.cleared) := by
      simp only [endOfInput, hcfg, hpolicy, hf, Bool.false_eq_true, if_false]
    have haction := onEof_prepend [said (.recDec s.host.line) (.record (r.toRecord .endOfFile))] s.cleared
    refine ⟨_, _, congrArg _ hend, exec_of_action (ty := .endOfFile) (s := s.cleared) hclear hvalid haction, ?_⟩
    rw [settle_prependEnd]
    exact ⟨rfl, rfl, rfl, rfl⟩

end Sys2Proof.Machine

/-! ## Errors and the Faulted state

What raises, what a Faulted block refuses, and the one way out of the Faulted state (60_exceptions.md R251 to R260,
R268). -/

namespace Sys2Proof.Machine

open Claims (said Malformed afterRefuse)

/-! ### A Faulted block -/

theorem Block.faulted_of_not_clear {b : Block} (h : b.err.kind ≠ .clear) : b.faulted = true :=
  eq_true_of_ne_false (mt b.faulted_eq_false_iff.mp h)

/-- A turn of the driver loop whose operation is refused gives the run up and keeps the block (R259; log 12). -/
theorem driveLine_of_faulted {s : State} (h : s.block.err.kind ≠ .clear) (op : Block → Block × Response)
    (act : HexRecord → State → Except State State) :
    driveLine (Block.guarded op) act s = afterRefuse s .blockRefused [said (.recDec s.host.line) .refused] := by
  have hop : Block.guarded op s.block = (s.block, .refused) := Block.guarded_of_faulted op (Block.faulted_of_not_clear h)
  rw [driveLine_of_refused (congrArg Prod.snd hop), State.issue, hop]
  rfl

theorem driveLine_block_of_faulted {s : State} (h : s.block.err.kind ≠ .clear) (op : Block → Block × Response)
    (act : HexRecord → State → Except State State) : (driveLine (Block.guarded op) act s).block = s.block := by
  rw [driveLine_of_faulted h]
  rfl

/-- Settles O49: the REC.DEC of a record form is guarded. -/
theorem recordLineIsRefusedWhenFaulted : Obligations.RecordLineIsRefusedWhenFaulted := by
  intro ty s r hfaulted
  rw [exec_ofRecord]
  exact congrArg Host.Outcome.next (driveLine_of_faulted hfaulted _ _)

/-- Settles O27: six of the operations are guarded, BLK.STAT and BLK.RESET are not (R259, R260). -/
theorem faultedBlockRefuses : Obligations.FaultedBlockRefuses := by
  intro s hfaulted
  refine ⟨?_, ?_, ?_⟩
  · rintro i (rfl | ⟨v, rfl⟩ | ⟨buf, rfl⟩ | rfl | rfl | ⟨cs, rfl⟩)
    · exact (exec_guarded (i := .crcClr) rfl s).2 hfaulted
    · exact (exec_guarded (i := .crcSeed v) rfl s).2 hfaulted
    · exact (exec_guarded (i := .crcFold buf) rfl s).2 hfaulted
    · exact (exec_guarded (i := .crcRd) rfl s).2 hfaulted
    · exact (exec_guarded (i := .crcRdb) rfl s).2 hfaulted
    · exact (exec_guarded (i := .recDec cs) rfl s).2 hfaulted
  · obtain ⟨k, hstat, -⟩ := blkStatReadsTheLatch.2 s
    exact ⟨k, hstat⟩
  · exact ⟨_, blkResetClearsTheBlockOnly.2 s, rfl⟩

/-! ### Entering and leaving the Faulted state -/

/-- BLK.RESET is the only operation that changes a Faulted block: BLK.STAT keeps it and the others are guarded. -/
theorem operation_keeps_faulted {i : Instr} {op : Block → Block × Response} (h : operationOf i = some op) {b : Block}
    (hfaulted : b.err.kind ≠ .clear) : (op b).1 = b ∨ i = .blkReset := by
  have guarded (f : Block → Block × Response) : (Block.guarded f b).1 = b :=
    congrArg Prod.fst (Block.guarded_of_faulted f (Block.faulted_of_not_clear hfaulted))
  cases i <;> cases h
  case blkReset => exact .inr rfl
  case blkStat => exact .inl rfl
  all_goals exact .inl (guarded _)

theorem startRun_block_of_no_file {l : Launch} (h : l.file = none) (s : State) : (startRun l s).block = s.block := by
  simp only [startRun, h]

/-- The end of the input is no way out of the Faulted state (log 12). -/
theorem endOfInput_block_of_faulted {s : State} (h : s.block.err.kind ≠ .clear) : (endOfInput s).block = s.block := by
  unfold endOfInput
  split
  · rfl
  · rw [if_pos (Block.faulted_of_not_clear h)]
    rfl

/-- Settles O29, by the cases of a step: an operation other than BLK.RESET keeps the block, and a line is refused. -/
theorem onlyResetLeavesFaulted : Obligations.OnlyResetLeavesFaulted := by
  intro s t hfaulted hstep
  cases stepCase_of_step hstep with
  | operation hport hdecode hop =>
    obtain hkept | rfl := operation_keeps_faulted hop hfaulted
    · exact .inl hkept
    · cases (decodePacket_eq_ok_iff _ _).mp hdecode
      exact .inr (.inl ⟨_, hport⟩)
  | unknownPacket _ _ => exact .inl rfl
  | @start l hport hlaunch =>
    cases hfile : l.file with
    | none => exact .inl (startRun_block_of_no_file hfile _)
    | some lines => exact .inr (.inr ⟨hport, l, lines, hlaunch, hfile⟩)
  | @record l rest _ _ _ _ _ _ _ =>
    exact .inl (driveLine_block_of_faulted (s := s.atLine l rest) hfaulted _ _)
  | @badLine l rest _ _ _ _ _ _ =>
    exact .inl (driveLine_block_of_faulted (s := s.atLine l rest) hfaulted _ _)
  | endOfInput _ _ _ _ => exact .inl (endOfInput_block_of_faulted (s := s.cleared) hfaulted)
  | idle _ _ _ => exact .inl rfl

/-- An operation other than REC.DEC leaves the latch of a block that is not Faulted clear (R255). -/
theorem operation_keeps_clear {i : Instr} {op : Block → Block × Response} (h : operationOf i = some op)
    (hdec : ∀ cs, i ≠ .recDec cs) {b : Block} (hclear : b.err.kind = .clear) : (op b).1.err.kind = .clear := by
  have guarded (f : Block → Block × Response) (hf : (f b).1.err = b.err) : (Block.guarded f b).1.err.kind = .clear := by
    rw [Block.guarded_of_clear f (b.faulted_eq_false_iff.mpr hclear), hf, hclear]
  cases i <;> cases h
  case blkReset => rfl
  case blkStat => exact hclear
  case recDec cs => exact absurd rfl (hdec cs)
  all_goals exact guarded _ rfl

/-- Settles O28: what is neither a record form nor REC.DEC keeps the latch clear. -/
theorem onlyDecodingRaises : Obligations.OnlyDecodingRaises := by
  intro i s t hclear hexec hfaulted
  obtain ⟨op, hop⟩ | hrecord := operation_or_record i
  · rw [exec_of_operation hop] at hexec
    cases hexec
    by_contra hne
    exact hfaulted (operation_keeps_clear hop (fun cs hi => hne (.inl ⟨cs, hi⟩)) hclear)
  · exact .inr hrecord

/-! ### A malformed line of a run -/

theorem decodeLine_of_malformed {line : Line} (h : Malformed line) : ∃ e, decodeLine line = .error e := by
  cases hdecode : decodeLine line with
  | error e => exact ⟨e, rfl⟩
  | ok i =>
    obtain ⟨t, r, -, hparse⟩ := (decodeLine_eq_ok_iff_parseRecord line i).mp hdecode
    exact absurd h (not_malformed_of_parseRecord hparse)

/-- Settles O50: the line spells no instruction and is given to REC.DEC all the same, whose raise aborts the run. -/
theorem malformedLineAbortsTheRun : Obligations.MalformedLineAbortsTheRun := by
  intro s l rest hline hclear hmal
  obtain ⟨hport, hlaunch, hrun, hinput⟩ := hline
  obtain ⟨e, hdecode⟩ := decodeLine_of_malformed hmal
  have hop : Block.decodeLine (strip l) (s.atLine l rest).block = s.block.raise (.malformedRecord (strip l)) :=
    Block.decodeLine_of_malformed hclear hmal
  have hturn : undecodable (.line (strip l)) (s.atLine l rest) =
      abort (.malformedRecord (strip l)) ((s.atLine l rest).issue (.recDec (strip l)) (Block.decodeLine (strip l))) :=
    driveLine_of_raised (congrArg Prod.snd hop) _
  rw [step_of_fetch_error (fetch_of_line hport hlaunch hrun hinput) hdecode, hturn, State.issue, hop,
    ← abort_eq_afterAbort]
  rfl

/-! ### Every step answers, and idleness changes nothing -/

theorem exec_answers (i : Instr) (s : State) : ∃ t, exec i s = .next t :=
  (exec_prepend s i).imp fun _ h => h.1

/-- Settles O9: a step that runs no instruction answers as well. -/
theorem everyStepAnswers : Obligations.EveryStepAnswers := by
  refine ⟨exec_answers, fun s => ?_⟩
  unfold step
  split
  · split
    · exact exec_answers _ _
    · exact ⟨_, rfl⟩
  · exact ⟨_, rfl⟩
  · exact ⟨_, rfl⟩
  · exact ⟨_, rfl⟩

/-- Settles O10: what is left is `State.cleared`. -/
theorem idleKeepsTheState : Obligations.IdleKeepsTheState := by
  intro s hport hlaunch hrun
  simp only [step, fetch_of_idle hport hlaunch hrun]
  rfl

end Sys2Proof.Machine

/-! ## Power-on and BLK.RESET

The two ways into the block's first state (70_reset_and_hazards.md R290). -/

namespace Sys2Proof.Machine

/-- Settles O24: what BLK.RESET puts in the block's place (`blkResetClearsTheBlockOnly`) is the block at power-on. -/
theorem powerOnAndResetAgree : Obligations.PowerOnAndResetAgree := by
  refine ⟨rfl, rfl, rfl, rfl, fun s => ?_⟩
  obtain ⟨-, hreset⟩ := blkResetClearsTheBlockOnly
  exact ⟨_, hreset s, rfl⟩

end Sys2Proof.Machine
